-- ==== Sys2Proof/Word.lean ====
section
/-! DEFINITION. The words of the ECMA block (spec/00_scope.md R5, spec/20_memory.md R40, R44): the 32-bit word that
the bus port and the command register carry, the 256-bit coordinate word, and the 12-bit word address. -/

namespace Sys2Proof

/-- One word of the bus port, of the command register and of one limb (R5, R40, R44). -/
abbrev Word := BitVec 32

/-- One coordinate of a point register: `CW = 256` bits (R4, R13). -/
abbrev Coord := BitVec 256

/-- The port's word address `addr[13:2]` (R40): the byte offset is this number times four. -/
abbrev WordAddr := BitVec 12

/-- The byte offset of a word address: `addr` with two zero bits appended (R40). -/
def WordAddr.offset (a : WordAddr) : Nat := 4 * a.toNat

end Sys2Proof
end

