-- ==== Sys2Proof/Syntax.lean ====
section
/-! DEFINITION. The commands of ECMA command set version 1 (spec/30_encoding.md R62): one constructor per row of
spec/opcode_table.json, its operands in the order of the assembler line. -/

namespace Sys2Proof

/-- A big-integer register index: `b0` to `b7` (R12). -/
abbrev BReg := Fin 8

/-- A point register index: `p0` to `p3` (R13). -/
abbrev PReg := Fin 4

/-- A command (R62). LDC keeps the whole `imm8` field, as R66 does: WellFormed says which selectors are legal. -/
inductive Instr where
  /-- `NOP` (R80). -/
  | nop
  /-- `MOV bd, ba` (R81). -/
  | mov (bd ba : BReg)
  /-- `PMOV pd, pa` (R82). -/
  | pmov (pd pa : PReg)
  /-- `LDC bd, #sel` (R83). -/
  | ldc (bd : BReg) (sel : BitVec 8)
  /-- `PLDG pd` (R84). -/
  | pldg (pd : PReg)
  /-- `PADD pd, pa, pb` (R95). -/
  | padd (pd pa pb : PReg)
  /-- `PDBL pd, pa` (R96). -/
  | pdbl (pd pa : PReg)
  /-- `PNEG pd, pa` (R97). -/
  | pneg (pd pa : PReg)
  /-- `PMUL pd, pa, bk` (R98): point first, scalar second. -/
  | pmul (pd pa : PReg) (bk : BReg)
  /-- `PCHK pa` (R99). -/
  | pchk (pa : PReg)
  /-- `MRED bd, ba, bm` (R113). -/
  | mred (bd ba bm : BReg)
  /-- `MMUL bd, ba, bb, bm` (R114). -/
  | mmul (bd ba bb bm : BReg)
  /-- `MINV bd, bk, bm` (R115). -/
  | minv (bd bk bm : BReg)
  /-- `MEXP bd, bb, be, bm` (R116). -/
  | mexp (bd bb be bm : BReg)
  /-- `QRT ba, bp` (R126). -/
  | qrt (ba bp : BReg)
  /-- `BSQRT bd, ba, bp` (R127). -/
  | bsqrt (bd ba bp : BReg)
  /-- `RCRT bd, bh, bp, bq` (R128). -/
  | rcrt (bd bh bp bq : BReg)
  /-- `RVFY bs, bh, bn` (R129). -/
  | rvfy (bs bh bn : BReg)
deriving DecidableEq, Repr

end Sys2Proof
end

