-- ==== Sys2Proof/WellFormed.lean ====
section
/-! DEFINITION. When a command is one the encoding of spec/30_encoding.md can carry. The register indices are bounded
by their types (R61); the one check left is LDC's selector (R63 (3), R66). -/

namespace Sys2Proof

/-- The command is legal: R66, "Values 6 to 255 are illegal" for LDC's selector; every other command is legal as it
stands. -/
def Instr.wellFormed : Instr → Bool
  | .nop => true
  | .mov _ _ => true
  | .pmov _ _ => true
  | .ldc _ sel => decide (sel.toNat ≤ 5)
  | .pldg _ => true
  | .padd _ _ _ => true
  | .pdbl _ _ => true
  | .pneg _ _ => true
  | .pmul _ _ _ => true
  | .pchk _ => true
  | .mred _ _ _ => true
  | .mmul _ _ _ _ => true
  | .minv _ _ _ => true
  | .mexp _ _ _ _ => true
  | .qrt _ _ => true
  | .bsqrt _ _ _ => true
  | .rcrt _ _ _ _ => true
  | .rvfy _ _ _ => true

/-- `wellFormed` as a proposition. -/
abbrev Instr.WellFormed (i : Instr) : Prop := i.wellFormed = true

end Sys2Proof
end

