-- ==== Sys2Proof/Decode.lean ====
section
/-! DEFINITION. The decoder (spec/30_encoding.md R61 to R66), total on all 2^32 words and refusing by name, and the
encoder written from the same table (R62, R69). -/

namespace Sys2Proof

/-- Why a word is no command: the four kinds that spec/60_exceptions.md R166 lists. Each makes the engine raise
IllegalCommand (R65). -/
inductive Illegal where
  /-- The opcode byte is not one of the 18 of R62 (R63 (1)). -/
  | unassignedOpcode
  /-- A field that the form marks `0` is not zero (R63 (2)). -/
  | nonzeroField
  /-- A `B` field above 7 or a `P` field above 3 (R63 (2)). -/
  | registerOutOfRange
  /-- `imm8` above 5 in LDC, or not zero elsewhere (R63 (3)). -/
  | badImmediate
deriving DecidableEq, Repr

/-! ## The fields of R61 -/

/-- `cmd[31:24]`. -/
def opcodeField (cmd : Word) : BitVec 8 := cmd.extractLsb' 24 8

/-- `cmd[23:20]`. -/
def rdField (cmd : Word) : BitVec 4 := cmd.extractLsb' 20 4

/-- `cmd[19:16]`. -/
def raField (cmd : Word) : BitVec 4 := cmd.extractLsb' 16 4

/-- `cmd[15:12]`. -/
def rbField (cmd : Word) : BitVec 4 := cmd.extractLsb' 12 4

/-- `cmd[11:8]`. -/
def rcField (cmd : Word) : BitVec 4 := cmd.extractLsb' 8 4

/-- `cmd[7:0]`. -/
def immField (cmd : Word) : BitVec 8 := cmd.extractLsb' 0 8

/-! ## The tests of R63 on one field -/

/-- A `B` field: an index 0 to 7 (R62, R63 (2)). -/
def bReg (f : BitVec 4) : Except Illegal BReg :=
  if h : f.toNat < 8 then .ok ⟨f.toNat, h⟩ else .error .registerOutOfRange

/-- A `P` field: an index 0 to 3 (R62, R63 (2)). -/
def pReg (f : BitVec 4) : Except Illegal PReg :=
  if h : f.toNat < 4 then .ok ⟨f.toNat, h⟩ else .error .registerOutOfRange

/-- A `0` field: must be zero (R62, R63 (2)). -/
def zeroField (f : BitVec 4) : Except Illegal Unit :=
  if f = 0 then .ok () else .error .nonzeroField

/-- `imm8` outside LDC: must be zero (R63 (3)). -/
def zeroImm (f : BitVec 8) : Except Illegal Unit :=
  if f = 0 then .ok () else .error .badImmediate

/-- `imm8` in LDC: a selector 0 to 5 (R63 (3), R66). -/
def selImm (f : BitVec 8) : Except Illegal (BitVec 8) :=
  if f.toNat ≤ 5 then .ok f else .error .badImmediate

/-- The decoder (R63): the opcode selects the row of R62, whose five columns are then read in order. -/
def decode (cmd : Word) : Except Illegal Instr :=
  let rd := rdField cmd
  let ra := raField cmd
  let rb := rbField cmd
  let rc := rcField cmd
  let imm := immField cmd
  match (opcodeField cmd).toNat with
  | 0x00 => do
    zeroField rd; zeroField ra; zeroField rb; zeroField rc; zeroImm imm
    return .nop
  | 0x01 => do
    let bd ← bReg rd; let ba ← bReg ra; zeroField rb; zeroField rc; zeroImm imm
    return .mov bd ba
  | 0x02 => do
    let pd ← pReg rd; let pa ← pReg ra; zeroField rb; zeroField rc; zeroImm imm
    return .pmov pd pa
  | 0x03 => do
    let bd ← bReg rd; zeroField ra; zeroField rb; zeroField rc; let sel ← selImm imm
    return .ldc bd sel
  | 0x04 => do
    let pd ← pReg rd; zeroField ra; zeroField rb; zeroField rc; zeroImm imm
    return .pldg pd
  | 0x10 => do
    let pd ← pReg rd; let pa ← pReg ra; let pb ← pReg rb; zeroField rc; zeroImm imm
    return .padd pd pa pb
  | 0x11 => do
    let pd ← pReg rd; let pa ← pReg ra; zeroField rb; zeroField rc; zeroImm imm
    return .pdbl pd pa
  | 0x12 => do
    let pd ← pReg rd; let pa ← pReg ra; zeroField rb; zeroField rc; zeroImm imm
    return .pneg pd pa
  | 0x13 => do
    let pd ← pReg rd; let pa ← pReg ra; let bk ← bReg rb; zeroField rc; zeroImm imm
    return .pmul pd pa bk
  | 0x14 => do
    zeroField rd; let pa ← pReg ra; zeroField rb; zeroField rc; zeroImm imm
    return .pchk pa
  | 0x20 => do
    let bd ← bReg rd; let ba ← bReg ra; let bm ← bReg rb; zeroField rc; zeroImm imm
    return .mred bd ba bm
  | 0x21 => do
    let bd ← bReg rd; let ba ← bReg ra; let bb ← bReg rb; let bm ← bReg rc; zeroImm imm
    return .mmul bd ba bb bm
  | 0x22 => do
    let bd ← bReg rd; let bk ← bReg ra; let bm ← bReg rb; zeroField rc; zeroImm imm
    return .minv bd bk bm
  | 0x23 => do
    let bd ← bReg rd; let bb ← bReg ra; let be ← bReg rb; let bm ← bReg rc; zeroImm imm
    return .mexp bd bb be bm
  | 0x30 => do
    zeroField rd; let ba ← bReg ra; let bp ← bReg rb; zeroField rc; zeroImm imm
    return .qrt ba bp
  | 0x31 => do
    let bd ← bReg rd; let ba ← bReg ra; let bp ← bReg rb; zeroField rc; zeroImm imm
    return .bsqrt bd ba bp
  | 0x32 => do
    let bd ← bReg rd; let bh ← bReg ra; let bp ← bReg rb; let bq ← bReg rc; zeroImm imm
    return .rcrt bd bh bp bq
  | 0x33 => do
    zeroField rd; let bs ← bReg ra; let bh ← bReg rb; let bn ← bReg rc; zeroImm imm
    return .rvfy bs bh bn
  | _ => .error .unassignedOpcode

/-- The instruction that `decode` reads from a row's word as spec/opcode_table.json numbers it. A command word is one
32-bit number with no byte order (R44, R60), so the word is the number; a row longer than 32 bits does not exist. -/
def decodeTableWord (nbits w : Nat) : Option Instr :=
  if nbits ≤ 32 then
    match decode (BitVec.ofNat 32 (w % 2 ^ nbits)) with
    | .ok i => some i
    | .error _ => none
  else none

/-! ## The encoder -/

/-- `opcode << 24 | rd << 20 | ra << 16 | rb << 12 | rc << 8 | imm8` (R69). -/
def packWord (opcode : BitVec 8) (rd ra rb rc : BitVec 4) (imm8 : BitVec 8) : Word :=
  opcode ++ rd ++ ra ++ rb ++ rc ++ imm8

/-- A big-integer register index as a field. -/
def bField (r : BReg) : BitVec 4 := BitVec.ofNat 4 r.val

/-- A point register index as a field. -/
def pField (r : PReg) : BitVec 4 := BitVec.ofNat 4 r.val

/-- The word of a command: the fields of its row of R62, packed as R69 says. -/
def encode : Instr → Word
  | .nop => packWord 0x00 0 0 0 0 0
  | .mov bd ba => packWord 0x01 (bField bd) (bField ba) 0 0 0
  | .pmov pd pa => packWord 0x02 (pField pd) (pField pa) 0 0 0
  | .ldc bd sel => packWord 0x03 (bField bd) 0 0 0 sel
  | .pldg pd => packWord 0x04 (pField pd) 0 0 0 0
  | .padd pd pa pb => packWord 0x10 (pField pd) (pField pa) (pField pb) 0 0
  | .pdbl pd pa => packWord 0x11 (pField pd) (pField pa) 0 0 0
  | .pneg pd pa => packWord 0x12 (pField pd) (pField pa) 0 0 0
  | .pmul pd pa bk => packWord 0x13 (pField pd) (pField pa) (bField bk) 0 0
  | .pchk pa => packWord 0x14 0 (pField pa) 0 0 0
  | .mred bd ba bm => packWord 0x20 (bField bd) (bField ba) (bField bm) 0 0
  | .mmul bd ba bb bm => packWord 0x21 (bField bd) (bField ba) (bField bb) (bField bm) 0
  | .minv bd bk bm => packWord 0x22 (bField bd) (bField bk) (bField bm) 0 0
  | .mexp bd bb be bm => packWord 0x23 (bField bd) (bField bb) (bField be) (bField bm) 0
  | .qrt ba bp => packWord 0x30 0 (bField ba) (bField bp) 0 0
  | .bsqrt bd ba bp => packWord 0x31 (bField bd) (bField ba) (bField bp) 0 0
  | .rcrt bd bh bp bq => packWord 0x32 (bField bd) (bField bh) (bField bp) (bField bq) 0
  | .rvfy bs bh bn => packWord 0x33 0 (bField bs) (bField bh) (bField bn) 0

/-! ## The opcode map -/

/-- The row of R64 that a command belongs to: its `match` and `mask` values. -/
def Instr.row : Instr → Word × Word
  | .nop => (0x00000000, 0xFFFFFFFF)
  | .mov _ _ => (0x01000000, 0xFF88FFFF)
  | .pmov _ _ => (0x02000000, 0xFFCCFFFF)
  | .ldc _ _ => (0x03000000, 0xFF8FFFF8)
  | .pldg _ => (0x04000000, 0xFFCFFFFF)
  | .padd _ _ _ => (0x10000000, 0xFFCCCFFF)
  | .pdbl _ _ => (0x11000000, 0xFFCCFFFF)
  | .pneg _ _ => (0x12000000, 0xFFCCFFFF)
  | .pmul _ _ _ => (0x13000000, 0xFFCC8FFF)
  | .pchk _ => (0x14000000, 0xFFFCFFFF)
  | .mred _ _ _ => (0x20000000, 0xFF888FFF)
  | .mmul _ _ _ _ => (0x21000000, 0xFF8888FF)
  | .minv _ _ _ => (0x22000000, 0xFF888FFF)
  | .mexp _ _ _ _ => (0x23000000, 0xFF8888FF)
  | .qrt _ _ => (0x30000000, 0xFFF88FFF)
  | .bsqrt _ _ _ => (0x31000000, 0xFF888FFF)
  | .rcrt _ _ _ _ => (0x32000000, 0xFF8888FF)
  | .rvfy _ _ _ => (0x33000000, 0xFFF888FF)

/-- The 18 rows of R64, in its order. -/
def opcodeMap : List (Word × Word) :=
  [(0x00000000, 0xFFFFFFFF), (0x01000000, 0xFF88FFFF), (0x02000000, 0xFFCCFFFF),
   (0x03000000, 0xFF8FFFF8), (0x04000000, 0xFFCFFFFF), (0x10000000, 0xFFCCCFFF),
   (0x11000000, 0xFFCCFFFF), (0x12000000, 0xFFCCFFFF), (0x13000000, 0xFFCC8FFF),
   (0x14000000, 0xFFFCFFFF), (0x20000000, 0xFF888FFF), (0x21000000, 0xFF8888FF),
   (0x22000000, 0xFF888FFF), (0x23000000, 0xFF8888FF), (0x30000000, 0xFFF88FFF),
   (0x31000000, 0xFF888FFF), (0x32000000, 0xFF8888FF), (0x33000000, 0xFFF888FF)]

end Sys2Proof
end

