-- ==== Sys2Proof/Config.lean ====
section
/-! DEFINITION. What is fixed for one machine: the parameter `W` (spec/00_scope.md R4) and the constants of the block
(R4, R8, spec/10_state.md R21, R22). The spec leaves no value open, so there is no free value here. -/

namespace Sys2Proof

/-- The configuration of one block. `W` is the only parameter that R4 marks as one: the width in bits of a big-integer
register. DESIGN CHOICE (safe, log 1): State carries it, so that a statement about every state is about every `W`. -/
structure Config where
  W : Nat
deriving DecidableEq, Repr

/-- The legal values of R4: "multiples of 32 with 512 ≤ W ≤ 8192". -/
abbrev Config.Legal (c : Config) : Prop := c.W % 32 = 0 ∧ 512 ≤ c.W ∧ c.W ≤ 8192

/-- The default of R4: `W = 2048`. -/
def Config.standard : Config := { W := 2048 }

/-- `NB`, the number of big-integer registers (R4). -/
def Config.nb : Nat := 8

/-- `NP`, the number of point registers (R4). -/
def Config.np : Nat := 4

/-- `CW`, the width of a coordinate (R4). -/
def Config.cw : Nat := 256

/-- `ID_VALUE` (R4, R21). -/
def Config.idValue : Word := 0x45434D31

/-! The curve parameters of R8 (secp256k1). PRESUMED by the spec itself (its G1), unsafe if misremembered: log 8. -/

/-- `P`, the curve prime (R8). -/
def Curve.P : Nat := 0xFFFFFFFFFFFFFFFFFFFFFFFFFFFFFFFFFFFFFFFFFFFFFFFFFFFFFFFEFFFFFC2F

/-- `A`, the linear coefficient (R8). -/
def Curve.A : Nat := 0

/-- `B`, the constant coefficient (R8). -/
def Curve.B : Nat := 7

/-- `Gx`, the generator's x (R8). -/
def Curve.Gx : Nat := 0x79BE667EF9DCBBAC55A06295CE870B07029BFCDB2DCE28D959F2815B16F81798

/-- `Gy`, the generator's y (R8). -/
def Curve.Gy : Nat := 0x483ADA7726A3C4655DA4FBFC0E1108A8FD17B448A68554199C47D08FFB10D4B8

/-- `N`, the group order (R8). -/
def Curve.N : Nat := 0xFFFFFFFFFFFFFFFFFFFFFFFFFFFFFFFEBAAEDCE6AF48A03BBFD25E8CD0364141

end Sys2Proof
end

