-- ==== Sys2Proof/Machine/State.lean ====
section
/-! DEFINITION. The state of the block as plain data (spec/10_state.md R10 to R26), its reset value (R25), the fault
codes (spec/60_exceptions.md R160), what the host can do next, and the two kinds of stop the host's interface names. -/

namespace Sys2Proof.Machine

/-- A point register (R13): the record `(inf, x, y)`. `inf = true` is Infinity whatever `x` and `y` hold (R14). -/
structure Point where
  inf : Bool
  x : Coord
  y : Coord
deriving DecidableEq, Repr

/-- Infinity as every producer writes it: `(inf=1, x=0, y=0)` (R14). -/
def Point.infinity : Point := { inf := true, x := 0, y := 0 }

/-- The faults of R160. Their numbers are `FaultCode.code` in Machine/Flags.lean. NoError (0x00) is no fault: ERRCODE
holds `none` for it. -/
inductive FaultCode where
  /-- 0x01, raised by MINV, and by PADD, PDBL, PMUL through `inv` (R161). -/
  | divisionByZero
  /-- 0x02, raised by PMUL (R162). -/
  | invalidScalar
  /-- 0x03, reserved: the host's error, never raised by the block (R163). -/
  | signatureSearchExhausted
  /-- 0x04, reserved: reported as `T = 0`, never raised (R164). -/
  | verificationFailure
  /-- 0x05, raised by BSQRT and RCRT (R165). -/
  | invalidKeyPair
  /-- 0x10, raised by any word that does not decode (R166). -/
  | illegalCommand
  /-- 0x11, an operand outside the range of the command's formula (R167). -/
  | operandRange
  /-- 0x12, a finite point operand off the curve (R168). -/
  | invalidPoint
  /-- 0x13, raised by `inv` when no inverse exists (R169). -/
  | notInvertible
deriving DecidableEq, Repr

/-- What the outside does in one step of the machine (spec/20_memory.md R40, R51; log 3). -/
inductive HostAction where
  /-- `MemRead(addr, 4)` (R41). -/
  | read (a : WordAddr)
  /-- `MemWrite(addr, 4, v)` (R42). -/
  | write (a : WordAddr) (v : Word)
  /-- `rst_n` falls and rises again (spec/70_reset_and_hazards.md R190). -/
  | reset
  /-- No transaction: the engine may take its step (R50). -/
  | pause
deriving DecidableEq, Repr

/-- The state of the block. The fields from `b` to `errinfo` are the spec's, all of them (R10). `cfg`, `rdata` and
`bus` are the model's own: the parameter `W` (log 1), the port's data output (log 5), and the host's actions still to
come, which also say when the engine moves (log 3). -/
structure State where
  /-- The configuration: the parameter `W` (R4). No step changes it. -/
  cfg : Config
  /-- `b0` to `b7`, `W` bits each (R12). Plain numbers, below `2 ^ W` by the invariant `Fits` (log 2). -/
  b : Vector Nat 8
  /-- `p0` to `p3` (R13). -/
  p : Vector Point 4
  /-- STATUS.BUSY (R16): a command is pending. -/
  busy : Bool
  /-- STATUS.DONE (R16). -/
  done : Bool
  /-- STATUS.ERR, the fault latch (R16). -/
  err : Bool
  /-- STATUS.T, the test flag (R15). -/
  tflag : Bool
  /-- STATUS.DROP (R16). -/
  drop : Bool
  /-- STATUS.ACCV (R16). -/
  accv : Bool
  /-- CTRL.IE_DONE (R17). -/
  ieDone : Bool
  /-- CTRL.IE_ERR (R17). -/
  ieErr : Bool
  /-- CMDREG, the last accepted command word (R18). -/
  cmdreg : Word
  /-- ERRCODE (R19): `none` is NoError. -/
  errcode : Option FaultCode
  /-- ERRINFO (R20). -/
  errinfo : Word
  /-- The port's output `rdata[31:0]` (R40): what the last host read returned (R41). -/
  rdata : Word
  /-- The host's actions still to come, the next one first (R51). -/
  bus : List HostAction
deriving DecidableEq, Repr

/-- The state after reset (R25, R190) of a block with configuration `c` whose host goes on with `acts`. DESIGN CHOICE:
`rdata = 0` (log 5). -/
def State.initial (c : Config) (acts : List HostAction) : State :=
  { cfg := c
    b := Vector.replicate 8 0
    p := Vector.replicate 4 Point.infinity
    busy := false, done := false, err := false, tflag := false, drop := false, accv := false
    ieDone := false, ieErr := false
    cmdreg := 0, errcode := none, errinfo := 0
    rdata := 0, bus := acts }

/-- The state after reset of the default block (R4: `W = 2048`) before the host has done anything. -/
def State.reset : State := State.initial Config.standard []

/-- What stops the machine with a fault: nothing. A command's fault is a next state (R170), and there is no bus error
(R47). So the type has no constructor, and no step of the model can answer `fault`: safe, log 9. -/
inductive Fault
deriving DecidableEq, Repr

/-- What the model gives no meaning. -/
inductive Refusal where
  /-- Raised by an arm of exec whose command has no meaning yet. Safe: nothing can be proved about it. No arm of this
  model raises it. -/
  | notModelled (mnemonic : String)
deriving DecidableEq, Repr

end Sys2Proof.Machine
end

