-- ==== Sys2Proof/Machine/Ops.lean ====
section
/-! DEFINITION. The named operations over the registers, and the ends of a command: success
(spec/20_memory.md R50), the fault sequence (spec/60_exceptions.md R170) and the fault return (R173). -/

namespace Sys2Proof.Machine

/-- What a step of this machine answers. -/
abbrev Out := Host.Outcome State Fault Refusal

/-! ## Registers -/

/-- `b[i]` (spec/00_scope.md R6). -/
def State.readB (s : State) (i : BReg) : Nat := s.b.get i

/-- `b[i] <- v` (R6): the whole register (spec/40_control.md R85). -/
def State.writeB (s : State) (i : BReg) (v : Nat) : State := { s with b := s.b.set i.val v i.isLt }

/-- `pt[i]` (R6). -/
def State.readP (s : State) (i : PReg) : Point := s.p.get i

/-- `pt[i] <- (inf, x, y)` (R6): all three fields (R85). -/
def State.writeP (s : State) (i : PReg) (q : Point) : State := { s with p := s.p.set i.val q i.isLt }

/-- `T <- v` (R6, spec/10_state.md R15). -/
def State.writeT (s : State) (v : Bool) : State := { s with tflag := v }

/-! ## Acceptance -/

/-- A command word is accepted (spec/20_memory.md R49): `CMDREG <- v; STATUS.BUSY <- 1; STATUS.DONE <- 0`. -/
def State.accept (s : State) (v : Word) : State := { s with cmdreg := v, busy := true, done := false }

/-- A write to CMD is dropped (R49): `STATUS.DROP <- 1` and nothing else. -/
def State.dropWrite (s : State) : State := { s with drop := true }

/-- A host write of `v` to CMD (R49): accepted when `BUSY = 0` and `ERR = 0`, otherwise dropped. -/
def State.offer (s : State) (v : Word) : State := if s.busy || s.err then s.dropWrite else s.accept v

/-! ## Completion -/

/-- The end of a command that succeeded (R50): `STATUS.BUSY <- 0; STATUS.DONE <- 1`. -/
def State.complete (s : State) : State := { s with busy := false, done := true }

/-- Taking a fault, the one fault sequence of the block (spec/60_exceptions.md R170): `STATUS.ERR <- 1; ERRCODE <- c;
ERRINFO <- CMDREG; STATUS.BUSY <- 0; STATUS.DONE <- 1`, and nothing else changes (R172). -/
def State.takeFault (s : State) (c : FaultCode) : State :=
  { s with err := true, errcode := some c, errinfo := s.cmdreg, busy := false, done := true }

/-- The fault return (R173): `STATUS.ERR <- 0; ERRCODE <- 0; ERRINFO <- 0`. -/
def State.faultReturn (s : State) : State := { s with err := false, errcode := none, errinfo := 0 }

/-- A command that cannot fault ends: `t` is the state with its destination written. -/
def succeed (t : State) : Out := .next t.complete

/-- A command ends (R50): `.ok t`, the state with the destination written, completes; `.error c` abandons the command and
takes the fault `c` in the state `s` it began in, so that nothing was written (R172). -/
def finish (s : State) (r : Except FaultCode State) : Out :=
  match r with
  | .ok t => .next t.complete
  | .error c => .next (s.takeFault c)

/-- A result for the big-integer register `bd`, or a fault. -/
def finishB (s : State) (bd : BReg) (r : Except FaultCode Nat) : Out := finish s (r.map (s.writeB bd))

/-- A result for the point register `pd`, or a fault. -/
def finishP (s : State) (pd : PReg) (r : Except FaultCode Point) : Out := finish s (r.map (s.writeP pd))

/-- A result for the flag T, or a fault (spec/10_state.md R15: a command that faults does not change T). -/
def finishT (s : State) (r : Except FaultCode Bool) : Out := finish s (r.map s.writeT)

end Sys2Proof.Machine
end

