-- ==== Sys2Proof/Machine/Operands.lean ====
section
/-! DEFINITION. The operand forms: LDC's constant selector (spec/30_encoding.md R66), the limbs by which the host sees a
register (spec/20_memory.md R44), and the points a command reads and produces (spec/10_state.md R14). -/

namespace Sys2Proof.Machine

/-! ## Constants -/

/-- `C[sel]` of spec/40_control.md R83, in the order of R66: P, N, A, B, Gx, Gy. The CURVE_* registers stand in the same
order (spec/20_memory.md R43). Any other selector selects nothing. -/
def constant? (sel : Nat) : Option Nat :=
  match sel with
  | 0 => some Curve.P
  | 1 => some Curve.N
  | 2 => some Curve.A
  | 3 => some Curve.B
  | 4 => some Curve.Gx
  | 5 => some Curve.Gy
  | _ => none

/-! ## Limbs -/

/-- Limb `j` of `v`: `v[32j+31 : 32j]` (R44). -/
def limb (v j : Nat) : Word := BitVec.ofNat 32 (v / 2 ^ (32 * j))

/-- `v` with limb `j` replaced by `d` and every other bit kept (R44): the bits above the limb, the new limb, the bits
below it. -/
def setLimb (v j : Nat) (d : Word) : Nat :=
  v / 2 ^ (32 * (j + 1)) * 2 ^ (32 * (j + 1)) + d.toNat * 2 ^ (32 * j) + v % 2 ^ (32 * j)

/-- A coordinate with limb `j` replaced (R44). -/
def setCoordLimb (c : Coord) (j : Nat) (d : Word) : Coord := BitVec.ofNat 256 (setLimb c.toNat j d)

/-! ## Points -/

/-- A finite point with the coordinates `x` and `y` (R14: `inf = 0`). Every producer passes residues below `P`, so the
narrowing to 256 bits keeps their values (log 17). -/
def Point.finite (x y : Nat) : Point := { inf := false, x := BitVec.ofNat 256 x, y := BitVec.ofNat 256 y }

/-- The point value as a producer writes it: Infinity in its canonical form, a finite point unchanged (R14). -/
def Point.canonical (q : Point) : Point := if q.inf then Point.infinity else q

/-- The generator `G = (Gx, Gy)` (spec/00_scope.md R8). -/
def Point.generator : Point := Point.finite Curve.Gx Curve.Gy

/-- Two point values are "equal as points" (R14): both Infinity, or both finite with equal coordinates. -/
def Point.same (q r : Point) : Bool := if q.inf then r.inf else !r.inf && q.x == r.x && q.y == r.y

end Sys2Proof.Machine
end

