-- ==== Sys2Proof/Machine/Flags.lean ====
section
/-! DEFINITION. The status, control and fault words as the host sees them (spec/10_state.md R16, R17, R19,
spec/60_exceptions.md R160), their writes (spec/20_memory.md R54, R55), and the interrupt output (R24). -/

namespace Sys2Proof.Machine

/-- A flag at bit `n` of a word. -/
def flagBit (v : Bool) (n : Nat) : Word := BitVec.ofNat 32 (v.toNat * 2 ^ n)

/-- STATUS as read (R16): BUSY, DONE, ERR, T, DROP, ACCV at bits 0 to 5, bits 31:6 zero. -/
def State.statusWord (s : State) : Word :=
  flagBit s.busy 0 ||| flagBit s.done 1 ||| flagBit s.err 2 ||| flagBit s.tflag 3 ||| flagBit s.drop 4 |||
    flagBit s.accv 5

/-- CTRL as read (R17): IE_DONE and IE_ERR at bits 0 and 1, bits 31:2 zero. -/
def State.ctrlWord (s : State) : Word := flagBit s.ieDone 0 ||| flagBit s.ieErr 1

/-- The number of a fault (R160). -/
def FaultCode.code : FaultCode → BitVec 8
  | .divisionByZero => 0x01
  | .invalidScalar => 0x02
  | .signatureSearchExhausted => 0x03
  | .verificationFailure => 0x04
  | .invalidKeyPair => 0x05
  | .illegalCommand => 0x10
  | .operandRange => 0x11
  | .invalidPoint => 0x12
  | .notInvertible => 0x13

/-- ERRCODE as read (R19): the code at bits 7:0, bits 31:8 zero, 0x00 for NoError. -/
def State.errcodeWord (s : State) : Word :=
  match s.errcode with
  | none => 0
  | some c => c.code.setWidth 32

/-- `irq = (STATUS.DONE and CTRL.IE_DONE) or (STATUS.ERR and CTRL.IE_ERR)` (R24). -/
def State.irq (s : State) : Bool := s.done && s.ieDone || s.err && s.ieErr

/-- A host write of `v` to STATUS (R54): each of DONE (bit 1), DROP (bit 4), ACCV (bit 5) is cleared when its bit of `v`
is 1, and when bit 2 is 1 the fault return clears ERR, ERRCODE and ERRINFO (R173). The other bits are ignored. -/
def State.writeStatus (s : State) (v : Word) : State :=
  let t := if v.getLsbD 2 then s.faultReturn else s
  { t with
    done := s.done && !v.getLsbD 1
    drop := s.drop && !v.getLsbD 4
    accv := s.accv && !v.getLsbD 5 }

/-- A host write of `v` to CTRL (R55): `CTRL.IE_DONE <- v[0]; CTRL.IE_ERR <- v[1]`; the other bits are ignored. -/
def State.writeCtrl (s : State) (v : Word) : State := { s with ieDone := v.getLsbD 0, ieErr := v.getLsbD 1 }

end Sys2Proof.Machine
end

