-- ==== Sys2Proof/Machine/Bus.lean ====
section
/-! DEFINITION. The register map and the host's transactions (spec/20_memory.md R40 to R49, R54, R55). -/

namespace Sys2Proof.Machine

/-- What a word of the register map holds (R43). -/
inductive MapWord where
  | id
  | cmd
  | status
  | ctrl
  | errcode
  | errinfo
  | paramW
  | paramCfg
  /-- Limb `j` of the curve constant numbered `k` in the order P, N, A, B, Gx, Gy. -/
  | curve (k j : Nat)
  /-- Limb `j` of `pt[i].x`. -/
  | px (i : PReg) (j : Nat)
  /-- Limb `j` of `pt[i].y`. -/
  | py (i : PReg) (j : Nat)
  /-- The INF word of `pt[i]`. -/
  | pinf (i : PReg)
  /-- Limb `j` of `b[i]`. -/
  | b (i : BReg) (j : Nat)
  | reserved
deriving DecidableEq, Repr

/-- The data region: offsets 0x0200 to 0x3FFC, mapped or not (R43). -/
def dataRegion (off : Nat) : Bool := 0x0200 ≤ off

/-- The control region of R43, 0x0000 to 0x01FC. -/
def controlWord (off : Nat) : MapWord :=
  if off < 0x0020 then
    match off / 4 with
    | 0 => .id
    | 1 => .cmd
    | 2 => .status
    | 3 => .ctrl
    | 4 => .errcode
    | 5 => .errinfo
    | 6 => .paramW
    | _ => .paramCfg
  else if 0x0100 ≤ off ∧ off < 0x01C0 then .curve ((off - 0x0100) / 0x20) ((off - 0x0100) % 0x20 / 4)
  else .reserved

/-- A word of the point registers of R43, `r` bytes into the block of 0x80 bytes of `p<i>`. -/
def pointWord (i : PReg) (r : Nat) : MapWord :=
  if r < 0x20 then .px i (r / 4)
  else if r < 0x40 then .py i ((r - 0x20) / 4)
  else if r < 0x44 then .pinf i
  else .reserved

/-- The data region of R43 for a width `W`: the points from 0x0200 with stride 0x80, the big integers from 0x1000 with
stride `W/8`. -/
def dataWord (W off : Nat) : MapWord :=
  if off < 0x0400 then
    if h : (off - 0x0200) / 0x80 < 4 then pointWord ⟨(off - 0x0200) / 0x80, h⟩ ((off - 0x0200) % 0x80) else .reserved
  else if 0x1000 ≤ off then
    if h : (off - 0x1000) / (W / 8) < 8 then .b ⟨(off - 0x1000) / (W / 8), h⟩ ((off - 0x1000) % (W / 8) / 4)
    else .reserved
  else .reserved

/-- The word at a byte offset (R43). -/
def mapWord (W off : Nat) : MapWord := if dataRegion off then dataWord W off else controlWord off

/-- The current value of a word of the map (R43); a reserved word reads 0 (R47). -/
def State.wordValue (s : State) : MapWord → Word
  | .id => Config.idValue
  | .cmd => s.cmdreg
  | .status => s.statusWord
  | .ctrl => s.ctrlWord
  | .errcode => s.errcodeWord
  | .errinfo => s.errinfo
  | .paramW => BitVec.ofNat 32 s.cfg.W
  | .paramCfg => BitVec.ofNat 32 (Config.cw * 2 ^ 16 + Config.np * 2 ^ 8 + Config.nb)
  | .curve k j => limb ((constant? k).getD 0) j
  | .px i j => limb (s.readP i).x.toNat j
  | .py i j => limb (s.readP i).y.toNat j
  | .pinf i => flagBit (s.readP i).inf 0
  | .b i j => limb (s.readB i) j
  | .reserved => 0

/-- The current value of the word at `a`, the lock aside. -/
def State.peek (s : State) (a : WordAddr) : Word := s.wordValue (mapWord s.cfg.W a.offset)

/-- An access to the data region while BUSY = 1 is refused (R48). -/
def State.locked (s : State) (a : WordAddr) : Bool := s.busy && dataRegion a.offset

/-- `MemRead(addr, 4)` (R41): the value goes to `rdata`. A locked read returns 0 and sets ACCV (R48); no other read has
a side effect (R46). -/
def State.busRead (s : State) (a : WordAddr) : State :=
  if s.locked a then { s with rdata := 0, accv := true } else { s with rdata := s.peek a }

/-- A host write to a word of the map, the lock aside (R42): CMD, STATUS and CTRL by their rules; a data word has that
limb, or the `inf` bit from `v[0]`, replaced (R44); every other word ignores the write (R47). -/
def State.writeWord (s : State) (w : MapWord) (v : Word) : State :=
  match w with
  | .cmd => s.offer v
  | .status => s.writeStatus v
  | .ctrl => s.writeCtrl v
  | .px i j => s.writeP i { s.readP i with x := setCoordLimb (s.readP i).x j v }
  | .py i j => s.writeP i { s.readP i with y := setCoordLimb (s.readP i).y j v }
  | .pinf i => s.writeP i { s.readP i with inf := v.getLsbD 0 }
  | .b i j => s.writeB i (setLimb (s.readB i) j v)
  | .id => s
  | .errcode => s
  | .errinfo => s
  | .paramW => s
  | .paramCfg => s
  | .curve _ _ => s
  | .reserved => s

/-- `MemWrite(addr, 4, v)` (R42). A locked write changes nothing and sets ACCV (R48). -/
def State.busWrite (s : State) (a : WordAddr) (v : Word) : State :=
  if s.locked a then { s with accv := true } else s.writeWord (mapWord s.cfg.W a.offset) v

end Sys2Proof.Machine
end

