-- ==== Sys2Proof/Machine/Integer.lean ====
section
/-! DEFINITION. The integer functions of the modular unit (spec/42_mod.md R111, R112, R117, spec/43_rabin.md R125):
exact, on unsigned integers, with signed values only inside the Euclidean loop. -/

namespace Sys2Proof.Machine

/-- `bitlen(v)`: the number of bits of `v` without leading zeros, `bitlen(0) = 0` (spec/00_scope.md R5). -/
def bitlen (v : Nat) : Nat := if v = 0 then 0 else v.log2 + 1

/-- The loop of R111 on `(old_r, r)` and `(old_s, s)`, to at most `fuel` rounds; it answers `(old_r, old_s)` at its exit.
The remainders are never negative. The fuel that `inv` gives is never used up (log 14). -/
def euclid : (fuel : Nat) → (oldR r : Nat) → (oldS s : Int) → Nat × Int
  | 0, oldR, _, oldS, _ => (oldR, oldS)
  | fuel + 1, oldR, r, oldS, s =>
    if r = 0 then (oldR, oldS)
    else
      let q := oldR / r
      euclid fuel r (oldR - q * r) s (oldS - (q : Int) * s)

/-- `inv(k, m)` (R111), for `m ≥ 1`: DivisionByZero when `k mod m = 0`, NotInvertible when the Euclidean loop ends at a
greatest common divisor other than 1, otherwise the inverse in `[0, m)`. -/
def inv (k m : Nat) : Except FaultCode Nat :=
  let k' := k % m
  if k' = 0 then .error .divisionByZero
  else
    let e := euclid (m + 1) k' m 1 0
    if e.1 = 1 then .ok (e.2 % (m : Int)).toNat else .error .notInvertible

/-- The square-and-multiply loop of R112 over the bits `i - 1` down to 0 of `e`, from the running value `r`. -/
def modexpLoop (b e m : Nat) : (i : Nat) → (r : Nat) → Nat
  | 0, r => r
  | i + 1, r =>
    let sq := r * r % m
    modexpLoop b e m i (if e.testBit i then sq * b % m else sq)

/-- `modexp(b, e, m)` (R112): `(b^e) mod m`, by left-to-right square-and-multiply from `1 mod m`. -/
def modexp (b e m : Nat) : Nat := modexpLoop b e m (bitlen e) (1 % m)

/-- `blum(p)`: `p mod 4 = 3` (R125). -/
def blum (p : Nat) : Bool := p % 4 == 3

end Sys2Proof.Machine
end

