-- ==== Sys2Proof/Machine/Curve.lean ====
section
/-! DEFINITION. The elliptic-curve functions (spec/41_ec.md R90 to R94), on residues modulo `P`. -/

namespace Sys2Proof.Machine

/-- `on_curve(x, y)` (R91): `(y·y) mod P = (x·x·x + A·x + B) mod P`. -/
def onCurve (x y : Nat) : Bool :=
  y * y % Curve.P == (x * x * x + Curve.A * x + Curve.B) % Curve.P

/-- Step 1 of R90 fails on this operand: finite, with a coordinate not below `P`. -/
def Point.outOfRange (q : Point) : Bool := !q.inf && (Curve.P ≤ q.x.toNat || Curve.P ≤ q.y.toNat)

/-- Step 2 of R90 fails on this operand: finite and off the curve. -/
def Point.offCurve (q : Point) : Bool := !q.inf && !onCurve q.x.toNat q.y.toNat

/-- `check_points` (R90): every range test before any curve test. -/
def checkPoints (qs : List Point) : Except FaultCode Unit :=
  if qs.any Point.outOfRange then .error .operandRange
  else if qs.any Point.offCurve then .error .invalidPoint
  else .ok ()

/-- The point of the chord or tangent with slope `m` through `(x1, y1)` and a second point at `x2` (R92):
`x3 = (m · m − x1 − x2) mod P`, `y3 = (m · (x1 − x3) − y1) mod P`. -/
def chordPoint (m x1 y1 x2 : Nat) : Point :=
  let x3 := (((m : Int) * m - x1 - x2) % Curve.P).toNat
  let y3 := (((m : Int) * ((x1 : Int) - x3) - y1) % Curve.P).toNat
  Point.finite x3 y3

/-- The doubling slope (R92): `((3 · x1 · x1) · inv((2 · y1) mod P, P)) mod P`. It has no `A` term, which is exact
because `A = 0` (spec/90_conflicts.md C2). -/
def tangentSlope (x1 y1 : Nat) : Except FaultCode Nat := do
  let d ← inv (2 * y1 % Curve.P) Curve.P
  return 3 * x1 * x1 * d % Curve.P

/-- The secant slope (R92): `(((y2 − y1) mod P) · inv((x2 − x1) mod P, P)) mod P`. -/
def secantSlope (x1 y1 x2 y2 : Nat) : Except FaultCode Nat := do
  let d ← inv (((x2 : Int) - x1) % Curve.P).toNat Curve.P
  return (((y2 : Int) - y1) % Curve.P).toNat * d % Curve.P

/-- `point_add(P1, P2)`, the group law (R92), on two point values that passed `checkPoints`. A fault of `inv` is the
fault of the command. -/
def pointAdd (q1 q2 : Point) : Except FaultCode Point :=
  if q1.inf then .ok q2.canonical
  else if q2.inf then .ok q1.canonical
  else
    let x1 := q1.x.toNat
    let y1 := q1.y.toNat
    let x2 := q2.x.toNat
    let y2 := q2.y.toNat
    if x1 = x2 then
      if y1 = y2 then do
        let m ← tangentSlope x1 y1
        return chordPoint m x1 y1 x2
      else .ok Point.infinity
    else do
      let m ← secantSlope x1 y1 x2 y2
      return chordPoint m x1 y1 x2

/-- The loop of R93 over the bits `i - 1` down to 0 of `k`, most significant first, from the running point `r`. -/
def pointMulLoop (k : Nat) (q : Point) : (i : Nat) → (r : Point) → Except FaultCode Point
  | 0, r => .ok r
  | i + 1, r => do
    let d ← pointAdd r r
    let r' ← if k.testBit i then pointAdd d q else .ok d
    pointMulLoop k q i r'

/-- `point_mul(k, Pt)` (R93): double-and-add from Infinity. -/
def pointMul (k : Nat) (q : Point) : Except FaultCode Point := pointMulLoop k q (bitlen k) Point.infinity

/-- `reflect(Pt)` (R94): Infinity, or `(inf=0, x=Pt.x, y=(P − Pt.y) mod P)`. -/
def reflect (q : Point) : Point :=
  if q.inf then Point.infinity
  else Point.finite q.x.toNat (((Curve.P : Int) - q.y.toNat) % Curve.P).toNat

/-- The membership test of PCHK (R99): Infinity, or in range and on the curve. -/
def Point.isMember (q : Point) : Bool :=
  q.inf || (decide (q.x.toNat < Curve.P) && decide (q.y.toNat < Curve.P) && onCurve q.x.toNat q.y.toNat)

end Sys2Proof.Machine
end

