-- ==== Sys2Proof/Machine/Control.lean ====
section
/-! DEFINITION. The control and move commands (spec/40_control.md R80 to R84). -/

namespace Sys2Proof.Machine

/-- NOP (R80): nothing but the handshake. -/
def execNop (s : State) : Out := succeed s

/-- MOV bd, ba (R81): `b[bd] <- b[ba]`, all W bits, no check. -/
def execMov (bd ba : BReg) (s : State) : Out := succeed (s.writeB bd (s.readB ba))

/-- PMOV pd, pa (R82): the three fields as they are, no check and no canonical form. -/
def execPmov (pd pa : PReg) (s : State) : Out := succeed (s.writeP pd (s.readP pa))

/-- LDC bd, #sel (R83): `b[bd] <- zext_W(C[sel])`; IllegalCommand for `sel > 5`, which the decoder lets no word reach
(log 10). -/
def execLdc (bd : BReg) (sel : BitVec 8) (s : State) : Out :=
  finishB s bd (match constant? sel.toNat with
    | some c => .ok c
    | none => .error .illegalCommand)

/-- PLDG pd (R84): `pt[pd] <- (inf=0, x=Gx, y=Gy)`. -/
def execPldg (pd : PReg) (s : State) : Out := succeed (s.writeP pd Point.generator)

end Sys2Proof.Machine
end

