-- ==== Sys2Proof/Machine/Ec.lean ====
section
/-! DEFINITION. The elliptic-curve commands (spec/41_ec.md R95 to R99). -/

namespace Sys2Proof.Machine

/-- PADD pd, pa, pb (R95): `check_points(pt[pa], pt[pb]); pt[pd] <- point_add(pt[pa], pt[pb])`. -/
def execPadd (pd pa pb : PReg) (s : State) : Out :=
  finishP s pd do
    checkPoints [s.readP pa, s.readP pb]
    pointAdd (s.readP pa) (s.readP pb)

/-- PDBL pd, pa (R96): `check_points(pt[pa]); pt[pd] <- point_add(pt[pa], pt[pa])`. -/
def execPdbl (pd pa : PReg) (s : State) : Out :=
  finishP s pd do
    checkPoints [s.readP pa]
    pointAdd (s.readP pa) (s.readP pa)

/-- PNEG pd, pa (R97): `check_points(pt[pa]); pt[pd] <- reflect(pt[pa])`. -/
def execPneg (pd pa : PReg) (s : State) : Out :=
  finishP s pd do
    checkPoints [s.readP pa]
    return reflect (s.readP pa)

/-- PMUL pd, pa, bk (R98): InvalidScalar when the whole register `b[bk]` is 0 or at least `N`; then
`check_points(pt[pa]); pt[pd] <- point_mul(k, pt[pa])`. -/
def execPmul (pd pa : PReg) (bk : BReg) (s : State) : Out :=
  finishP s pd
    (if s.readB bk = 0 ∨ Curve.N ≤ s.readB bk then .error .invalidScalar
     else do
      checkPoints [s.readP pa]
      pointMul (s.readB bk) (s.readP pa))

/-- PCHK pa (R99): `T <- 1` for Infinity and for a point in range and on the curve, else 0; never a fault. -/
def execPchk (pa : PReg) (s : State) : Out := succeed (s.writeT (s.readP pa).isMember)

end Sys2Proof.Machine
end

