-- ==== Sys2Proof/Machine/Modular.lean ====
section
/-! DEFINITION. The modular arithmetic and exponentiation commands (spec/42_mod.md R113 to R116). -/

namespace Sys2Proof.Machine

/-- A zero modulus is never divided by: it raises OperandRange first (R117 (3)). -/
def withModulus (m : Nat) (r : Except FaultCode Nat) : Except FaultCode Nat :=
  if m = 0 then .error .operandRange else r

/-- MRED bd, ba, bm (R113): `b[bd] <- a mod m`. -/
def execMred (bd ba bm : BReg) (s : State) : Out :=
  finishB s bd (withModulus (s.readB bm) (.ok (s.readB ba % s.readB bm)))

/-- MMUL bd, ba, bb, bm (R114): `b[bd] <- (a · c) mod m`, the product exact. -/
def execMmul (bd ba bb bm : BReg) (s : State) : Out :=
  finishB s bd (withModulus (s.readB bm) (.ok (s.readB ba * s.readB bb % s.readB bm)))

/-- MINV bd, bk, bm (R115): `b[bd] <- inv(k, m)`. -/
def execMinv (bd bk bm : BReg) (s : State) : Out :=
  finishB s bd (withModulus (s.readB bm) (inv (s.readB bk) (s.readB bm)))

/-- MEXP bd, bb, be, bm (R116): `b[bd] <- modexp(x, e, m)`. -/
def execMexp (bd bb be bm : BReg) (s : State) : Out :=
  finishB s bd (withModulus (s.readB bm) (.ok (modexp (s.readB bb) (s.readB be) (s.readB bm))))

end Sys2Proof.Machine
end

