-- ==== Sys2Proof/Machine/Rabin.lean ====
section
/-! DEFINITION. The Rabin support commands (spec/43_rabin.md R126 to R129). -/

namespace Sys2Proof.Machine

/-- QRT ba, bp (R126): OperandRange when `p < 3` or `p` is even; otherwise
`T <- (a mod p = 0) or (modexp(a, (p − 1)/2, p) = 1)`. -/
def execQrt (ba bp : BReg) (s : State) : Out :=
  let a := s.readB ba
  let p := s.readB bp
  finishT s
    (if p < 3 ∨ p % 2 = 0 then .error .operandRange
     else .ok (a % p == 0 || modexp a ((p - 1) / 2) p == 1))

/-- BSQRT bd, ba, bp (R127): InvalidKeyPair unless `blum(p)`; otherwise `b[bd] <- modexp(a, (p + 1)/4, p)`. -/
def execBsqrt (bd ba bp : BReg) (s : State) : Out :=
  let a := s.readB ba
  let p := s.readB bp
  finishB s bd (if blum p then .ok (modexp a ((p + 1) / 4) p) else .error .invalidKeyPair)

/-- One term of the CRT sum (R128): `q · modexp(h, (p + 1)/4, p) · modexp(q, p − 2, p)`, the exact product. -/
def crtTerm (h p q : Nat) : Nat := q * modexp h ((p + 1) / 4) p * modexp q (p - 2) p

/-- RCRT bd, bh, bp, bq (R128): OperandRange when the product `p · q` "does not fit in W bits", that is `p · q ≥ 2^W`;
then InvalidKeyPair unless `p` and `q` are distinct and both Blum; otherwise `b[bd] <- (lp + rp) mod (p · q)`. -/
def execRcrt (bd bh bp bq : BReg) (s : State) : Out :=
  let h := s.readB bh
  let p := s.readB bp
  let q := s.readB bq
  finishB s bd
    (if s.cfg.W < bitlen (p * q) then .error .operandRange
     else if !blum p || !blum q || p == q then .error .invalidKeyPair
     else .ok ((crtTerm h p q + crtTerm h q p) % (p * q)))

/-- RVFY bs, bh, bn (R129): OperandRange when `n = 0`; otherwise `T <- ((s · s) mod n = h mod n)`. -/
def execRvfy (bs bh bn : BReg) (s : State) : Out :=
  let v := s.readB bs
  let h := s.readB bh
  let n := s.readB bn
  finishT s (if n = 0 then .error .operandRange else .ok (v * v % n == h % n))

end Sys2Proof.Machine
end

