-- ==== Sys2Proof/Machine/Dispatch.lean ====
section
/-! DEFINITION. The command's completion, one arm per command (spec/20_memory.md R50, spec/30_encoding.md R62). -/

namespace Sys2Proof.Machine

def exec (i : Instr) (s : State) : Host.Outcome State Fault Refusal :=
  match i with
  | .nop => Sys2Proof.Machine.execNop s
  | .mov bd ba => Sys2Proof.Machine.execMov bd ba s
  | .pmov pd pa => Sys2Proof.Machine.execPmov pd pa s
  | .ldc bd sel => Sys2Proof.Machine.execLdc bd sel s
  | .pldg pd => Sys2Proof.Machine.execPldg pd s
  | .padd pd pa pb => Sys2Proof.Machine.execPadd pd pa pb s
  | .pdbl pd pa => Sys2Proof.Machine.execPdbl pd pa s
  | .pneg pd pa => Sys2Proof.Machine.execPneg pd pa s
  | .pmul pd pa bk => Sys2Proof.Machine.execPmul pd pa bk s
  | .pchk pa => Sys2Proof.Machine.execPchk pa s
  | .mred bd ba bm => Sys2Proof.Machine.execMred bd ba bm s
  | .mmul bd ba bb bm => Sys2Proof.Machine.execMmul bd ba bb bm s
  | .minv bd bk bm => Sys2Proof.Machine.execMinv bd bk bm s
  | .mexp bd bb be bm => Sys2Proof.Machine.execMexp bd bb be bm s
  | .qrt ba bp => Sys2Proof.Machine.execQrt ba bp s
  | .bsqrt bd ba bp => Sys2Proof.Machine.execBsqrt bd ba bp s
  | .rcrt bd bh bp bq => Sys2Proof.Machine.execRcrt bd bh bp bq s
  | .rvfy bs bh bn => Sys2Proof.Machine.execRvfy bs bh bn s

end Sys2Proof.Machine
end

