-- ==== Sys2Proof/Machine/Engine.lean ====
section
/-! DEFINITION. The agents of the block: the engine (spec/20_memory.md R50), the host (R51) and reset
(spec/70_reset_and_hazards.md R190, R191). -/

namespace Sys2Proof.Machine

/-- The completion step (R50): the command of CMDREG by the decoder, or IllegalCommand for a word that is none
(spec/60_exceptions.md R166). -/
def completeCommand (s : State) : Out :=
  match decode s.cmdreg with
  | .ok i => exec i s
  | .error _ => .next (s.takeFault .illegalCommand)

/-- The engine's turn (R50): its one step while BUSY = 1; while BUSY = 0 it has none, and the state stays (log 4). -/
def engineTurn (s : State) : Out := if s.busy then completeCommand s else .next s

/-- One action of the outside, taken off the list by the step before (R46, R51): a transaction, reset (R190), or none,
and then it is the engine's turn. -/
def hostTurn (act : HostAction) (s : State) : Out :=
  match act with
  | .read a => .next (s.busRead a)
  | .write a v => .next (s.busWrite a v)
  | .reset => .next (State.initial s.cfg s.bus)
  | .pause => engineTurn s

end Sys2Proof.Machine
end

