-- ==== Sys2Proof/Machine/Step.lean ====
section
/-! DEFINITION. One step of the machine: the next action of the host, or, when the host has none left, the engine's turn
(spec/20_memory.md R50, R51; log 3, log 4). -/

namespace Sys2Proof.Machine

/-- One step. The list `bus` says which agent moves next. -/
def step (s : State) : Host.Outcome State Fault Refusal :=
  match s.bus with
  | [] => engineTurn s
  | act :: rest => hostTurn act { s with bus := rest }

/-- `s` with the command word `w` accepted (R49), and a pause put before the host's other actions, so that the very next
step is the engine completing it (log 6). -/
def State.withFetchWord (s : State) (nbits w : Nat) : State :=
  { s.accept (BitVec.ofNat 32 (w % 2 ^ nbits)) with bus := .pause :: s.bus }

end Sys2Proof.Machine
end

