-- ==== Sys2Proof/Machine/Script.lean ====
section
/-! DEFINITION. The pseudo-commands (spec/30_encoding.md R70) and the directives of the host-script notation (R71), as
lists of commands and of host transactions. They add nothing to the machine: they name what a host sends it. -/

namespace Sys2Proof.Machine

/-! ## Pseudo-commands -/

/-- `PMULG pd, bk` (R70): `point_multiply(k, G)`. -/
def pmulg (pd : PReg) (bk : BReg) : List Instr := [.pldg pd, .pmul pd pd bk]

/-- `MSQR bd, ba, bm` (R70): `a² mod m`. -/
def msqr (bd ba bm : BReg) : List Instr := [.mmul bd ba ba bm]

/-- `LDP bd` (R70): load `P`. -/
def ldp (bd : BReg) : List Instr := [.ldc bd 0]

/-- `LDN bd` (R70): load `N`. -/
def ldn (bd : BReg) : List Instr := [.ldc bd 1]

/-- `FINV bd, bk` (R70): `inverse_mod(k, P)`, "only legal when `bd ≠ bk`". -/
def finv (bd bk : BReg) : Option (List Instr) := if bd = bk then none else some [.ldc bd 0, .minv bd bk bd]

/-! ## Script directives -/

/-- The word address of a byte offset that is a multiple of 4 (spec/20_memory.md R40). -/
def wordAddr (off : Nat) : WordAddr := BitVec.ofNat 12 (off / 4)

/-- `ISSUE <command>` (R71): `MemWrite(0x0004, 4, encoding)`. -/
def issue (i : Instr) : HostAction := .write (wordAddr 0x0004) (encode i)

/-- `RDS` (R71): `MemRead(0x0008, 4)`. -/
def rds : HostAction := .read (wordAddr 0x0008)

/-- `RDE` (R71): `MemRead(0x0010, 4)`. -/
def rde : HostAction := .read (wordAddr 0x0010)

/-- `CLR v` (R71): `MemWrite(0x0008, 4, v)`. -/
def clr (v : Word) : HostAction := .write (wordAddr 0x0008) v

/-- `WAIT` (R71), with `n` polls that still read BUSY = 1 before the engine moves and the poll that reads 0. -/
def wait (n : Nat) : List HostAction := List.replicate n rds ++ [.pause, rds]

/-- Byte offset of limb `j` of `b<i>` for a width `W` (spec/20_memory.md R43). -/
def bOffset (W : Nat) (i : BReg) (j : Nat) : Nat := 0x1000 + W / 8 * i.val + 4 * j

/-- Byte offset of limb `j` of `p<i>.X` (R43). -/
def pxOffset (i : PReg) (j : Nat) : Nat := 0x0200 + 0x80 * i.val + 4 * j

/-- Byte offset of limb `j` of `p<i>.Y` (R43). -/
def pyOffset (i : PReg) (j : Nat) : Nat := 0x0220 + 0x80 * i.val + 4 * j

/-- Byte offset of `p<i>.INF` (R43). -/
def pinfOffset (i : PReg) : Nat := 0x0240 + 0x80 * i.val

/-- `WRB bi, v` (R71): all `W/32` limbs. -/
def wrb (W : Nat) (i : BReg) (v : Nat) : List HostAction :=
  (List.range (W / 32)).map fun j => .write (wordAddr (bOffset W i j)) (limb v j)

/-- `WRP pi, (x, y)` (R71): the limbs of X, the limbs of Y, then 0 to the INF word. -/
def wrp (i : PReg) (x y : Nat) : List HostAction :=
  (List.range 8).map (fun j => .write (wordAddr (pxOffset i j)) (limb x j)) ++
    (List.range 8).map (fun j => .write (wordAddr (pyOffset i j)) (limb y j)) ++
    [.write (wordAddr (pinfOffset i)) 0]

/-- `WRP pi, INF` (R71): 1 to the INF word, X and Y untouched. -/
def wrpInf (i : PReg) : HostAction := .write (wordAddr (pinfOffset i)) 1

/-- `RDB bi` (R71): reads of all limbs. -/
def rdb (W : Nat) (i : BReg) : List HostAction :=
  (List.range (W / 32)).map fun j => .read (wordAddr (bOffset W i j))

/-- `RDP pi` (R71): reads of all limbs and of the INF word. -/
def rdp (i : PReg) : List HostAction :=
  (List.range 8).map (fun j => .read (wordAddr (pxOffset i j))) ++
    (List.range 8).map (fun j => .read (wordAddr (pyOffset i j))) ++ [.read (wordAddr (pinfOffset i))]

/-- Commands issued one after the other, each waited for (R70, R71): `X ; WAIT` for every line. -/
def runCommands (cmds : List Instr) : List HostAction := cmds.flatMap fun i => issue i :: wait 0

end Sys2Proof.Machine
end

