-- ==== Sys2Proof/Safety.lean ====
section
/-! DEFINITION. The terms claims are made in: what a command may and must not change (spec/40_control.md R85,
spec/60_exceptions.md R170, R172), the invariant of a legal state (spec/10_state.md R12, R16, R19, R20), and the two other
ways of spec/41_ec.md R100 (b) to multiply a point. -/

namespace Sys2Proof.Machine

/-! ## What a command changes -/

/-- What no command changes: the configuration, CMDREG, CTRL, DROP, ACCV, the port's output and the host's actions. -/
structure KeepsInterface (s t : State) : Prop where
  cfg : t.cfg = s.cfg
  cmdreg : t.cmdreg = s.cmdreg
  drop : t.drop = s.drop
  accv : t.accv = s.accv
  ieDone : t.ieDone = s.ieDone
  ieErr : t.ieErr = s.ieErr
  rdata : t.rdata = s.rdata
  bus : t.bus = s.bus

/-- A command's success from `s` to `t`, its destination aside (R50): BUSY is 0, DONE is 1, and the fault registers are as
they were. -/
structure Succeeds (s t : State) : Prop extends KeepsInterface s t where
  busy : t.busy = false
  done : t.done = true
  err : t.err = s.err
  errcode : t.errcode = s.errcode
  errinfo : t.errinfo = s.errinfo

/-- Success with no destination (R80). -/
structure WroteNothing (s t : State) : Prop extends Succeeds s t where
  b : ∀ r, t.readB r = s.readB r
  p : ∀ r, t.readP r = s.readP r
  tflag : t.tflag = s.tflag

/-- Success that wrote `v` to the big-integer register `bd` and nothing else (R85). -/
structure WroteB (s t : State) (bd : BReg) (v : Nat) : Prop extends Succeeds s t where
  value : t.readB bd = v
  b : ∀ r, r ≠ bd → t.readB r = s.readB r
  p : ∀ r, t.readP r = s.readP r
  tflag : t.tflag = s.tflag

/-- Success that wrote `q` to the point register `pd` and nothing else (R85). -/
structure WroteP (s t : State) (pd : PReg) (q : Point) : Prop extends Succeeds s t where
  value : t.readP pd = q
  b : ∀ r, t.readB r = s.readB r
  p : ∀ r, r ≠ pd → t.readP r = s.readP r
  tflag : t.tflag = s.tflag

/-- Success that wrote `v` to the flag T and nothing else (R15). -/
structure WroteT (s t : State) (v : Bool) : Prop extends Succeeds s t where
  b : ∀ r, t.readB r = s.readB r
  p : ∀ r, t.readP r = s.readP r
  value : t.tflag = v

/-- The fault sequence with code `c` (R170), and that nothing else changed (R172). -/
structure Faulted (s t : State) (c : FaultCode) : Prop extends KeepsInterface s t where
  busy : t.busy = false
  done : t.done = true
  err : t.err = true
  errcode : t.errcode = some c
  errinfo : t.errinfo = s.cmdreg
  b : ∀ r, t.readB r = s.readB r
  p : ∀ r, t.readP r = s.readP r
  tflag : t.tflag = s.tflag

/-! ## Sources and destinations (spec/30_encoding.md R62) -/

/-- The command's destination, when it is a big-integer register. -/
def destB : Instr → Option BReg
  | .nop => none
  | .mov bd _ => some bd
  | .pmov _ _ => none
  | .ldc bd _ => some bd
  | .pldg _ => none
  | .padd _ _ _ => none
  | .pdbl _ _ => none
  | .pneg _ _ => none
  | .pmul _ _ _ => none
  | .pchk _ => none
  | .mred bd _ _ => some bd
  | .mmul bd _ _ _ => some bd
  | .minv bd _ _ => some bd
  | .mexp bd _ _ _ => some bd
  | .qrt _ _ => none
  | .bsqrt bd _ _ => some bd
  | .rcrt bd _ _ _ => some bd
  | .rvfy _ _ _ => none

/-- The command's destination, when it is a point register. -/
def destP : Instr → Option PReg
  | .nop => none
  | .mov _ _ => none
  | .pmov pd _ => some pd
  | .ldc _ _ => none
  | .pldg pd => some pd
  | .padd pd _ _ => some pd
  | .pdbl pd _ => some pd
  | .pneg pd _ => some pd
  | .pmul pd _ _ => some pd
  | .pchk _ => none
  | .mred _ _ _ => none
  | .mmul _ _ _ _ => none
  | .minv _ _ _ => none
  | .mexp _ _ _ _ => none
  | .qrt _ _ => none
  | .bsqrt _ _ _ => none
  | .rcrt _ _ _ _ => none
  | .rvfy _ _ _ => none

/-- The command's destination is T (spec/10_state.md R15): PCHK, QRT and RVFY. -/
def writesT : Instr → Bool
  | .nop => false
  | .mov _ _ => false
  | .pmov _ _ => false
  | .ldc _ _ => false
  | .pldg _ => false
  | .padd _ _ _ => false
  | .pdbl _ _ => false
  | .pneg _ _ => false
  | .pmul _ _ _ => false
  | .pchk _ => true
  | .mred _ _ _ => false
  | .mmul _ _ _ _ => false
  | .minv _ _ _ => false
  | .mexp _ _ _ _ => false
  | .qrt _ _ => true
  | .bsqrt _ _ _ => false
  | .rcrt _ _ _ _ => false
  | .rvfy _ _ _ => true

/-- The big-integer registers the command reads. -/
def sourcesB : Instr → List BReg
  | .nop => []
  | .mov _ ba => [ba]
  | .pmov _ _ => []
  | .ldc _ _ => []
  | .pldg _ => []
  | .padd _ _ _ => []
  | .pdbl _ _ => []
  | .pneg _ _ => []
  | .pmul _ _ bk => [bk]
  | .pchk _ => []
  | .mred _ ba bm => [ba, bm]
  | .mmul _ ba bb bm => [ba, bb, bm]
  | .minv _ bk bm => [bk, bm]
  | .mexp _ bb be bm => [bb, be, bm]
  | .qrt ba bp => [ba, bp]
  | .bsqrt _ ba bp => [ba, bp]
  | .rcrt _ bh bp bq => [bh, bp, bq]
  | .rvfy bs bh bn => [bs, bh, bn]

/-- The point registers the command reads. -/
def sourcesP : Instr → List PReg
  | .nop => []
  | .mov _ _ => []
  | .pmov _ pa => [pa]
  | .ldc _ _ => []
  | .pldg _ => []
  | .padd _ pa pb => [pa, pb]
  | .pdbl _ pa => [pa]
  | .pneg _ pa => [pa]
  | .pmul _ pa _ => [pa]
  | .pchk pa => [pa]
  | .mred _ _ _ => []
  | .mmul _ _ _ _ => []
  | .minv _ _ _ => []
  | .mexp _ _ _ _ => []
  | .qrt _ _ => []
  | .bsqrt _ _ _ => []
  | .rcrt _ _ _ _ => []
  | .rvfy _ _ _ => []

/-- How a command ends: it succeeds, having written its one destination or nothing, or it faults (R50, R85, R172). -/
def Ends (i : Instr) (s t : State) : Prop :=
  (destB i = none ∧ destP i = none ∧ writesT i = false ∧ WroteNothing s t) ∨
  (∃ bd v, destB i = some bd ∧ WroteB s t bd v) ∨
  (∃ pd q, destP i = some pd ∧ WroteP s t pd q) ∨
  (∃ v, writesT i = true ∧ WroteT s t v) ∨
  (∃ c, Faulted s t c)

/-! ## Legal states -/

/-- Every big-integer register holds a number of `W` bits (R12; log 2). -/
def Fits (s : State) : Prop := ∀ r, s.readB r < 2 ^ s.cfg.W

/-- "Legal combinations" of R16: BUSY = 1 implies DONE = 0, and BUSY = 1 implies ERR = 0. -/
def HandshakeLegal (s : State) : Prop := s.busy = true → s.done = false ∧ s.err = false

/-- ERRCODE and ERRINFO against ERR (R19, R20): NoError and 0 while ERR = 0; while ERR = 1 the code of a fault that the
block raises (spec/60_exceptions.md R163, R164: never 0x03 or 0x04), and the word of CMDREG, since no command is accepted
on top of a latched fault. -/
def LatchLegal (s : State) : Prop :=
  (s.err = false → s.errcode = none ∧ s.errinfo = 0) ∧
  (s.err = true → s.errinfo = s.cmdreg ∧
    ∃ c, s.errcode = some c ∧ c ≠ .signatureSearchExhausted ∧ c ≠ .verificationFailure)

/-- The invariant of the block: a legal `W` (spec/00_scope.md R4), registers that fit, a legal handshake and latch. -/
structure Inv (s : State) : Prop where
  config : s.cfg.Legal
  fits : Fits s
  handshake : HandshakeLegal s
  latch : LatchLegal s

/-! ## Points as R100 speaks of them -/

/-- Step 1 of R90 fails on this operand: finite, with a coordinate not below `P`. -/
abbrev Point.RangeBad (q : Point) : Prop := q.inf = false ∧ (Curve.P ≤ q.x.toNat ∨ Curve.P ≤ q.y.toNat)

/-- The curve equation of R91 at `(x, y)`: `y² ≡ x³ + 7 (mod P)`. -/
abbrev Point.Equation (q : Point) : Prop :=
  q.y.toNat * q.y.toNat % Curve.P = (q.x.toNat * q.x.toNat * q.x.toNat + 7) % Curve.P

/-- Step 2 of R90 fails on this operand: finite and off the curve. -/
abbrev Point.EquationBad (q : Point) : Prop := q.inf = false ∧ ¬ q.Equation

/-- A member of "`{Infinity} ∪ {valid curve points}`" (R99), the operands that pass R90: Infinity, or in range and on the
curve. -/
abbrev Point.Member (q : Point) : Prop :=
  q.inf = true ∨ (q.x.toNat < Curve.P ∧ q.y.toNat < Curve.P ∧ q.Equation)

/-- The `k`-fold group sum of `q` (R100 (b)): Infinity, then `q` added `k` times. -/
def foldAdd (q : Point) : (k : Nat) → Except FaultCode Point
  | 0 => .ok Point.infinity
  | k + 1 => do
    let r ← foldAdd q k
    pointAdd r q

/-- The loop of R100 (b) that §4.2 describes: the bits of `k` from bit 0 upward, `i` of them. -/
def lsbMulLoop : (i k : Nat) → (r q : Point) → Except FaultCode Point
  | 0, _, r, _ => .ok r
  | i + 1, k, r, q => do
    let r' ← if k % 2 = 1 then pointAdd r q else .ok r
    let q' ← pointAdd q q
    lsbMulLoop i (k / 2) r' q'

/-- Least-significant-bit-first double-and-add (R100 (b)): `R = Infinity; Q = Pt`. -/
def lsbMul (k : Nat) (q : Point) : Except FaultCode Point := lsbMulLoop (bitlen k) k Point.infinity q

end Sys2Proof.Machine
end

