-- ==== Sys2Proof/Certificates/Slice0/Obligations.lean ====
section
/-! DEFINITION. The statements for the provers. Each docstring names the rule of spec/ it formalises. -/

open Sys2Proof Sys2Proof.Machine

/-! ## Encoding -/

/-- spec/30_encoding.md R62, R63, R69: the decoder gives back every well-formed command from its word. -/
def Obligations.DecodeReadsEncodedCommand : Prop :=
  ∀ i : Instr, i.WellFormed → decode (encode i) = .ok i

/-- R62, R63, R69: a word that decodes is the word of the command it decodes to, so no bit of it is dropped. -/
def Obligations.EncodeRestoresDecodedWord : Prop :=
  ∀ (w : Word) (i : Instr), decode w = .ok i → i.WellFormed ∧ encode i = w

/-- R63, R64: `cmd` is the command of a row "exactly when `(cmd and mask) = match` (and, for LDC, `imm8 ≤ 5`)". -/
def Obligations.DecodeAgreesWithOpcodeMap : Prop :=
  ∀ w : Word, ∀ r ∈ opcodeMap,
    (∃ i, decode w = .ok i ∧ i.row = r) ↔ (w &&& r.2 = r.1 ∧ (r.1 = 0x03000000 → (immField w).toNat ≤ 5))

/-- R63: "No two rows match the same word". -/
def Obligations.NoTwoRowsMatchOneWord : Prop :=
  ∀ w : Word, ∀ r ∈ opcodeMap, ∀ r' ∈ opcodeMap, w &&& r.2 = r.1 → w &&& r'.2 = r'.1 → r = r'

/-- Words written out from R61 and R62, one of each family, decode to the command they stand for, and one with a non-zero
unused field to none. -/
def Obligations.WrittenOutWordsDecode : Prop :=
  decode 0x01300000 = .ok (.mov 3 0) ∧ decode 0x03100001 = .ok (.ldc 1 1) ∧
  decode 0x13102000 = .ok (.pmul 1 0 2) ∧ decode 0x21301200 = .ok (.mmul 3 0 1 2) ∧
  decode 0x33030400 = .ok (.rvfy 3 0 4) ∧ decode 0x30100000 = .error .nonzeroField

/-! ## The engine -/

/-- spec/20_memory.md R50: while BUSY = 1 and CMDREG decodes, the step in which the engine moves is exec of that command:
with no host action left, or at a pause, which is taken off the list first. A word put in place by `withFetchWord` runs in
the very next step (log 3, log 6: the list of host actions is the model's form of R51). -/
def Obligations.StepRunsDecodedCommand : Prop :=
  (∀ (s : State) (i : Instr), s.busy = true → decode s.cmdreg = .ok i →
    (s.bus = [] → step s = exec i s) ∧
    (∀ rest, s.bus = .pause :: rest → step s = exec i { s with bus := rest })) ∧
  (∀ (s : State) (w : Nat) (i : Instr), decodeTableWord 32 w = some i →
    step (s.withFetchWord 32 w) = exec i (s.accept (BitVec.ofNat 32 w)))

/-- spec/60_exceptions.md R166, spec/30_encoding.md R65: a word that matches no row of the opcode map (LDC with `imm8 > 5`
matches none) raises IllegalCommand when the engine completes it, and nothing but the fault sequence happens. -/
def Obligations.IllegalWordRaisesIllegalCommand : Prop :=
  ∀ s : State, s.busy = true →
    (∀ r ∈ opcodeMap, s.cmdreg &&& r.2 = r.1 → r.1 = 0x03000000 ∧ 5 < (immField s.cmdreg).toNat) →
    ∃ t, engineTurn s = .next t ∧ Faulted s t .illegalCommand

/-- spec/20_memory.md R50: "While BUSY = 0 the engine has no step". The step in which the engine could move leaves the
state as it is (log 4), a pause only being taken off the list. -/
def Obligations.IdleEngineChangesNothing : Prop :=
  ∀ s : State, s.busy = false →
    (s.bus = [] → step s = .next s) ∧ (∀ rest, s.bus = .pause :: rest → step s = .next { s with bus := rest })

/-- R50, spec/40_control.md R85, spec/60_exceptions.md R172: every command, from every state, answers a next state in which
it has written its one destination and nothing else, or has faulted and written none. -/
def Obligations.EveryCommandEndsOnce : Prop :=
  ∀ (i : Instr) (s : State), ∃ t, exec i s = .next t ∧ Ends i s t

/-- The frame on the register map (spec/10_state.md R26, spec/20_memory.md R43): after a command, every data-region word
outside its destination register reads as before, for every legal `W`. -/
def Obligations.CommandLeavesOtherWords : Prop :=
  ∀ (i : Instr) (s t : State) (a : WordAddr), s.cfg.Legal → exec i s = .next t → 0x0200 ≤ a.offset →
    (∀ r, destB i = some r →
      ¬ (0x1000 + s.cfg.W / 8 * r.val ≤ a.offset ∧ a.offset < 0x1000 + s.cfg.W / 8 * (r.val + 1))) →
    (∀ r, destP i = some r → ¬ (0x0200 + 0x80 * r.val ≤ a.offset ∧ a.offset < 0x0200 + 0x80 * (r.val + 1))) →
    t.peek a = s.peek a

/-- spec/00_scope.md R9: "Every command is a pure function of the command word and of the register values". Two states that
agree on `W` and on the command's sources end alike: the same fault, or success with the same value in the destination. -/
def Obligations.CommandDependsOnlyOnItsSources : Prop :=
  ∀ (i : Instr) (s u : State), s.cfg = u.cfg →
    (∀ r ∈ sourcesB i, s.readB r = u.readB r) → (∀ r ∈ sourcesP i, s.readP r = u.readP r) →
    ∃ s' u', exec i s = .next s' ∧ exec i u = .next u' ∧
      ((∃ c, Faulted s s' c ∧ Faulted u u' c) ∨
       (Succeeds s s' ∧ Succeeds u u' ∧ (∀ r, destB i = some r → s'.readB r = u'.readB r) ∧
        (∀ r, destP i = some r → s'.readP r = u'.readP r) ∧ (writesT i = true → s'.tflag = u'.tflag)))

/-! ## Control and move commands -/

/-- spec/40_control.md R80. -/
def Obligations.NopOnlyCompletes : Prop :=
  decode 0x00000000 = .ok .nop ∧ ∀ s : State, ∃ t, exec .nop s = .next t ∧ WroteNothing s t

/-- R81: `b[bd] <- b[ba]`, from any state and any registers, with its encoding. -/
def Obligations.MovCopiesTheRegister : Prop :=
  ∀ bd ba : BReg, decode (packWord 0x01 (bField bd) (bField ba) 0 0 0) = .ok (.mov bd ba) ∧
    ∀ s : State, ∃ t, exec (.mov bd ba) s = .next t ∧ WroteB s t bd (s.readB ba)

/-- R82: the three fields are copied bit for bit, whatever they hold, with its encoding. -/
def Obligations.PmovCopiesThePointRaw : Prop :=
  ∀ pd pa : PReg, decode (packWord 0x02 (pField pd) (pField pa) 0 0 0) = .ok (.pmov pd pa) ∧
    ∀ s : State, ∃ t, exec (.pmov pd pa) s = .next t ∧ WroteP s t pd (s.readP pa)

/-- R83, spec/30_encoding.md R66: LDC loads the selected constant, zero-extended; a selector above 5 does not decode. -/
def Obligations.LdcLoadsTheSelectedConstant : Prop :=
  ∀ (bd : BReg) (sel : BitVec 8),
    (∀ h : sel.toNat < 6,
      decode (packWord 0x03 (bField bd) 0 0 0 sel) = .ok (.ldc bd sel) ∧
      ∀ s : State, ∃ t, exec (.ldc bd sel) s = .next t ∧
        WroteB s t bd ([Curve.P, Curve.N, Curve.A, Curve.B, Curve.Gx, Curve.Gy][sel.toNat]'h)) ∧
    (6 ≤ sel.toNat → decode (packWord 0x03 (bField bd) 0 0 0 sel) = .error .badImmediate)

/-- R84: `pt[pd] <- (inf=0, x=Gx, y=Gy)`, with its encoding. -/
def Obligations.PldgLoadsTheGenerator : Prop :=
  ∀ pd : PReg, decode (packWord 0x04 (pField pd) 0 0 0 0) = .ok (.pldg pd) ∧
    ∀ s : State, ∃ t q, exec (.pldg pd) s = .next t ∧ WroteP s t pd q ∧
      q.inf = false ∧ q.x.toNat = Curve.Gx ∧ q.y.toNat = Curve.Gy

/-! ## Elliptic-curve commands -/

/-- spec/41_ec.md R95, R90, with its encoding: the range test of both operands, then the membership test, then `point_add`,
which does not fault on members. -/
def Obligations.PaddAddsOrFaults : Prop :=
  ∀ (s : State) (pd pa pb : PReg),
    decode (packWord 0x10 (pField pd) (pField pa) (pField pb) 0 0) = .ok (.padd pd pa pb) ∧
    ((s.readP pa).RangeBad ∨ (s.readP pb).RangeBad →
      ∃ t, exec (.padd pd pa pb) s = .next t ∧ Faulted s t .operandRange) ∧
    (¬ (s.readP pa).RangeBad → ¬ (s.readP pb).RangeBad → (s.readP pa).EquationBad ∨ (s.readP pb).EquationBad →
      ∃ t, exec (.padd pd pa pb) s = .next t ∧ Faulted s t .invalidPoint) ∧
    ((s.readP pa).Member → (s.readP pb).Member →
      ∃ t q, exec (.padd pd pa pb) s = .next t ∧ pointAdd (s.readP pa) (s.readP pb) = .ok q ∧ WroteP s t pd q)

/-- R96, R90, with its encoding: as PADD, of one point with itself. -/
def Obligations.PdblDoublesOrFaults : Prop :=
  ∀ (s : State) (pd pa : PReg),
    decode (packWord 0x11 (pField pd) (pField pa) 0 0 0) = .ok (.pdbl pd pa) ∧
    ((s.readP pa).RangeBad → ∃ t, exec (.pdbl pd pa) s = .next t ∧ Faulted s t .operandRange) ∧
    (¬ (s.readP pa).RangeBad → (s.readP pa).EquationBad →
      ∃ t, exec (.pdbl pd pa) s = .next t ∧ Faulted s t .invalidPoint) ∧
    ((s.readP pa).Member →
      ∃ t q, exec (.pdbl pd pa) s = .next t ∧ pointAdd (s.readP pa) (s.readP pa) = .ok q ∧ WroteP s t pd q)

/-- R97, R94, with its encoding: the same tests; Infinity gives canonical Infinity, `(x, y)` gives `(x, (P − y) mod P)`. -/
def Obligations.PnegReflectsOrFaults : Prop :=
  ∀ (s : State) (pd pa : PReg),
    decode (packWord 0x12 (pField pd) (pField pa) 0 0 0) = .ok (.pneg pd pa) ∧
    ((s.readP pa).RangeBad → ∃ t, exec (.pneg pd pa) s = .next t ∧ Faulted s t .operandRange) ∧
    (¬ (s.readP pa).RangeBad → (s.readP pa).EquationBad →
      ∃ t, exec (.pneg pd pa) s = .next t ∧ Faulted s t .invalidPoint) ∧
    ((s.readP pa).inf = true →
      ∃ t, exec (.pneg pd pa) s = .next t ∧ WroteP s t pd { inf := true, x := 0, y := 0 }) ∧
    ((s.readP pa).inf = false → (s.readP pa).Member →
      ∃ t q, exec (.pneg pd pa) s = .next t ∧ WroteP s t pd q ∧ q.inf = false ∧ q.x = (s.readP pa).x ∧
        q.y.toNat = (Curve.P - (s.readP pa).y.toNat) % Curve.P)

/-- R98, with its encoding: InvalidScalar on 0 and on the whole register at or above `N`, before any test of the point; then R90; then
`point_mul`, which does not fault on a member and gives a member; the scalar 1 gives the point itself. -/
def Obligations.PmulMultipliesOrFaults : Prop :=
  ∀ (s : State) (pd pa : PReg) (bk : BReg),
    decode (packWord 0x13 (pField pd) (pField pa) (bField bk) 0 0) = .ok (.pmul pd pa bk) ∧
    (s.readB bk = 0 ∨ Curve.N ≤ s.readB bk →
      ∃ t, exec (.pmul pd pa bk) s = .next t ∧ Faulted s t .invalidScalar) ∧
    (0 < s.readB bk → s.readB bk < Curve.N → (s.readP pa).RangeBad →
      ∃ t, exec (.pmul pd pa bk) s = .next t ∧ Faulted s t .operandRange) ∧
    (0 < s.readB bk → s.readB bk < Curve.N → ¬ (s.readP pa).RangeBad → (s.readP pa).EquationBad →
      ∃ t, exec (.pmul pd pa bk) s = .next t ∧ Faulted s t .invalidPoint) ∧
    (0 < s.readB bk → s.readB bk < Curve.N → (s.readP pa).Member →
      ∃ t q, exec (.pmul pd pa bk) s = .next t ∧ pointMul (s.readB bk) (s.readP pa) = .ok q ∧ WroteP s t pd q ∧
        q.Member ∧ (s.readB bk = 1 → q = (s.readP pa).canonical))

/-- R99, R91: T is 1 exactly for Infinity and for a point in range that satisfies `y² ≡ x³ + 7 (mod P)`; never a fault. -/
def Obligations.PchkTestsMembership : Prop :=
  ∀ pa : PReg, decode (packWord 0x14 0 (pField pa) 0 0 0) = .ok (.pchk pa) ∧
    ∀ s : State, ∃ t v, exec (.pchk pa) s = .next t ∧ WroteT s t v ∧ (v = true ↔ (s.readP pa).Member)

/-- R92: what `point_add` answers on members, case by case, the slope and the result given by the congruences they solve. -/
def Obligations.PointAddIsChordAndTangent : Prop :=
  ∀ q r : Point, q.Member → r.Member →
    (q.inf = true → pointAdd q r = .ok r.canonical) ∧
    (r.inf = true → pointAdd q r = .ok q.canonical) ∧
    (q.inf = false → r.inf = false → q.x = r.x → q.y ≠ r.y →
      pointAdd q r = .ok { inf := true, x := 0, y := 0 }) ∧
    (q.inf = false → r.inf = false → (q.x = r.x → q.y = r.y) →
      ∃ (m : Int) (v : Point), pointAdd q r = .ok v ∧ v.inf = false ∧ v.x.toNat < Curve.P ∧ v.y.toNat < Curve.P ∧
        (q.x = r.x → m * (2 * q.y.toNat) ≡ 3 * q.x.toNat * q.x.toNat [ZMOD Curve.P]) ∧
        (q.x ≠ r.x → m * (r.x.toNat - q.x.toNat) ≡ r.y.toNat - q.y.toNat [ZMOD Curve.P]) ∧
        v.x.toNat ≡ m * m - q.x.toNat - r.x.toNat [ZMOD Curve.P] ∧
        v.y.toNat ≡ m * (q.x.toNat - v.x.toNat) - q.y.toNat [ZMOD Curve.P])

/-- spec/95_test_vectors.md S8.2: "`point_add(Infinity, P) = P`; `point_add(P, reflect(P)) = Infinity`", on members. -/
def Obligations.GroupIdentityLaws : Prop :=
  ∀ q : Point, q.Member →
    pointAdd Point.infinity q = .ok q.canonical ∧ pointAdd q (reflect q) = .ok Point.infinity

/-- R100 (a) and (d): on members no command of the unit can fault in `inv`, and its result is a member. -/
def Obligations.PointResultsStayOnTheCurve : Prop :=
  ∀ q r : Point, q.Member → r.Member →
    (∃ v, pointAdd q r = .ok v ∧ v.Member) ∧ (reflect q).Member ∧ ∀ k, ∃ v, pointMul k q = .ok v ∧ v.Member

/-- R100 (b): "`point_mul(k, Pt)` is the `k`-fold group sum of `Pt`", at every `k` and member. -/
def Obligations.PointMulIsTheRepeatedSum : Prop :=
  ∀ (k : Nat) (q : Point), q.Member → pointMul k q = foldAdd q k

/-- R100 (b), spec/90_conflicts.md C1: the least-significant-bit-first loop "returns the same value". -/
def Obligations.ScalarBitOrderIsImmaterial : Prop :=
  ∀ (k : Nat) (q : Point), q.Member → lsbMul k q = pointMul k q

/-- R100 (c): "`e·(d·G) = d·(e·G)`", for every member in the place of `G`. -/
def Obligations.ScalarMultiplicationCommutes : Prop :=
  ∀ (d e : Nat) (q : Point), q.Member → ∃ v w x, pointMul d q = .ok v ∧ pointMul e q = .ok w ∧
    pointMul e v = .ok x ∧ pointMul d w = .ok x

/-! ## Modular commands -/

/-- spec/42_mod.md R113, with its encoding. -/
def Obligations.MredReduces : Prop :=
  ∀ bd ba bm : BReg, decode (packWord 0x20 (bField bd) (bField ba) (bField bm) 0 0) = .ok (.mred bd ba bm) ∧
    ∀ s : State,
      (s.readB bm = 0 → ∃ t, exec (.mred bd ba bm) s = .next t ∧ Faulted s t .operandRange) ∧
      (s.readB bm ≠ 0 → ∃ t, exec (.mred bd ba bm) s = .next t ∧ WroteB s t bd (s.readB ba % s.readB bm))

/-- R114, with its encoding: the product is exact before the reduction. -/
def Obligations.MmulMultiplies : Prop :=
  ∀ bd ba bb bm : BReg,
    decode (packWord 0x21 (bField bd) (bField ba) (bField bb) (bField bm) 0) = .ok (.mmul bd ba bb bm) ∧
    ∀ s : State,
      (s.readB bm = 0 → ∃ t, exec (.mmul bd ba bb bm) s = .next t ∧ Faulted s t .operandRange) ∧
      (s.readB bm ≠ 0 →
        ∃ t, exec (.mmul bd ba bb bm) s = .next t ∧ WroteB s t bd (s.readB ba * s.readB bb % s.readB bm))

/-- R115, R111, with its encoding: the faults in test order, and otherwise "the unique integer `r` with `0 ≤ r < p` and
`k·r ≡ 1 (mod p)`". -/
def Obligations.MinvInvertsOrFaults : Prop :=
  ∀ bd bk bm : BReg, decode (packWord 0x22 (bField bd) (bField bk) (bField bm) 0 0) = .ok (.minv bd bk bm) ∧
    ∀ s : State,
      (s.readB bm = 0 → ∃ t, exec (.minv bd bk bm) s = .next t ∧ Faulted s t .operandRange) ∧
      (s.readB bm ≠ 0 → s.readB bk % s.readB bm = 0 →
        ∃ t, exec (.minv bd bk bm) s = .next t ∧ Faulted s t .divisionByZero) ∧
      (s.readB bm ≠ 0 → s.readB bk % s.readB bm ≠ 0 → Nat.gcd (s.readB bk % s.readB bm) (s.readB bm) ≠ 1 →
        ∃ t, exec (.minv bd bk bm) s = .next t ∧ Faulted s t .notInvertible) ∧
      (s.readB bm ≠ 0 → s.readB bk % s.readB bm ≠ 0 → Nat.gcd (s.readB bk % s.readB bm) (s.readB bm) = 1 →
        ∃ t r, exec (.minv bd bk bm) s = .next t ∧ WroteB s t bd r ∧ r < s.readB bm ∧
          s.readB bk * r % s.readB bm = 1)

/-- R116, R112, with its encoding: "`(b^e) mod m`" for every base, exponent and modulus, `0^0` and `m = 1` among them. -/
def Obligations.MexpIsThePower : Prop :=
  ∀ bd bb be bm : BReg,
    decode (packWord 0x23 (bField bd) (bField bb) (bField be) (bField bm) 0) = .ok (.mexp bd bb be bm) ∧
    ∀ s : State,
      (s.readB bm = 0 → ∃ t, exec (.mexp bd bb be bm) s = .next t ∧ Faulted s t .operandRange) ∧
      (s.readB bm ≠ 0 →
        ∃ t, exec (.mexp bd bb be bm) s = .next t ∧ WroteB s t bd (s.readB bb ^ s.readB be % s.readB bm))

/-! ## Rabin commands -/

/-- spec/43_rabin.md R126, with its encoding: T by Euler's criterion as written, for every odd modulus from 3. -/
def Obligations.QrtTestsEulersCriterion : Prop :=
  ∀ ba bp : BReg, decode (packWord 0x30 0 (bField ba) (bField bp) 0 0) = .ok (.qrt ba bp) ∧
    ∀ s : State,
      (s.readB bp < 3 ∨ s.readB bp % 2 = 0 → ∃ t, exec (.qrt ba bp) s = .next t ∧ Faulted s t .operandRange) ∧
      (3 ≤ s.readB bp → s.readB bp % 2 = 1 →
        ∃ t v, exec (.qrt ba bp) s = .next t ∧ WroteT s t v ∧
          (v = true ↔ s.readB ba % s.readB bp = 0 ∨ s.readB ba ^ ((s.readB bp - 1) / 2) % s.readB bp = 1))

/-- R127, R125, with its encoding. -/
def Obligations.BsqrtTakesTheBlumRoot : Prop :=
  ∀ bd ba bp : BReg, decode (packWord 0x31 (bField bd) (bField ba) (bField bp) 0 0) = .ok (.bsqrt bd ba bp) ∧
    ∀ s : State,
      (s.readB bp % 4 ≠ 3 → ∃ t, exec (.bsqrt bd ba bp) s = .next t ∧ Faulted s t .invalidKeyPair) ∧
      (s.readB bp % 4 = 3 →
        ∃ t, exec (.bsqrt bd ba bp) s = .next t ∧
          WroteB s t bd (s.readB ba ^ ((s.readB bp + 1) / 4) % s.readB bp))

/-- R128, R125, with its encoding: the faults in test order, and otherwise the CRT sum with `lp` and `rp` the exact
products of three factors. Swapping `p` and `q` gives the same. -/
def Obligations.RcrtReconstructsOrFaults : Prop :=
  ∀ bd bh bp bq : BReg,
    decode (packWord 0x32 (bField bd) (bField bh) (bField bp) (bField bq) 0) = .ok (.rcrt bd bh bp bq) ∧
    ∀ s : State,
      (2 ^ s.cfg.W ≤ s.readB bp * s.readB bq →
        ∃ t, exec (.rcrt bd bh bp bq) s = .next t ∧ Faulted s t .operandRange) ∧
      (s.readB bp * s.readB bq < 2 ^ s.cfg.W →
        s.readB bp % 4 ≠ 3 ∨ s.readB bq % 4 ≠ 3 ∨ s.readB bp = s.readB bq →
        ∃ t, exec (.rcrt bd bh bp bq) s = .next t ∧ Faulted s t .invalidKeyPair) ∧
      (s.readB bp * s.readB bq < 2 ^ s.cfg.W → s.readB bp % 4 = 3 → s.readB bq % 4 = 3 →
        s.readB bp ≠ s.readB bq →
        ∃ t, exec (.rcrt bd bh bp bq) s = .next t ∧
          WroteB s t bd
            ((s.readB bq * (s.readB bh ^ ((s.readB bp + 1) / 4) % s.readB bp) *
                  (s.readB bq ^ (s.readB bp - 2) % s.readB bp) +
                s.readB bp * (s.readB bh ^ ((s.readB bq + 1) / 4) % s.readB bq) *
                  (s.readB bp ^ (s.readB bq - 2) % s.readB bq)) %
              (s.readB bp * s.readB bq))) ∧
      exec (.rcrt bd bh bq bp) s = exec (.rcrt bd bh bp bq) s

/-- R129, with its encoding: T is the congruence; a failed verification is no fault. -/
def Obligations.RvfyTestsTheCongruence : Prop :=
  ∀ bs bh bn : BReg, decode (packWord 0x33 0 (bField bs) (bField bh) (bField bn) 0) = .ok (.rvfy bs bh bn) ∧
    ∀ s : State,
      (s.readB bn = 0 → ∃ t, exec (.rvfy bs bh bn) s = .next t ∧ Faulted s t .operandRange) ∧
      (s.readB bn ≠ 0 →
        ∃ t v, exec (.rvfy bs bh bn) s = .next t ∧ WroteT s t v ∧
          (v = true ↔ s.readB bs * s.readB bs % s.readB bn = s.readB bh % s.readB bn))

/-- The remark of R127 about a prime `p`: the root of a residue squares to it, that of a non-residue to its negative. -/
def Obligations.BlumRootSquaresToTheResidue : Prop :=
  ∀ (s t : State) (bd ba bp : BReg), (s.readB bp).Prime → s.readB bp % 4 = 3 → exec (.bsqrt bd ba bp) s = .next t →
    ((∃ x, x * x % s.readB bp = s.readB ba % s.readB bp) →
      t.readB bd * t.readB bd % s.readB bp = s.readB ba % s.readB bp) ∧
    ((¬ ∃ x, x * x % s.readB bp = s.readB ba % s.readB bp) →
      (t.readB bd * t.readB bd + s.readB ba) % s.readB bp = 0)

/-- R130: for distinct Blum primes with `p·q < 2^W`, when QRT gives `T = 1` for `(h, p)` and for `(h, q)`, the value that
RCRT writes satisfies the congruence, and RVFY on it gives `T = 1`. -/
def Obligations.RabinRoundTripVerifies : Prop :=
  ∀ (s s1 s2 t : State) (bd bh bp bq bn : BReg),
    (s.readB bp).Prime → (s.readB bq).Prime → s.readB bp ≠ s.readB bq → s.readB bp % 4 = 3 → s.readB bq % 4 = 3 →
    s.readB bp * s.readB bq < 2 ^ s.cfg.W → s.readB bn = s.readB bp * s.readB bq → bn ≠ bd → bh ≠ bd →
    exec (.qrt bh bp) s = .next s1 → s1.tflag = true → exec (.qrt bh bq) s = .next s2 → s2.tflag = true →
    exec (.rcrt bd bh bp bq) s = .next t →
    t.readB bd * t.readB bd % t.readB bn = t.readB bh % t.readB bn ∧
    ∃ u, exec (.rvfy bd bh bn) t = .next u ∧ WroteT t u true

/-! ## The handshake -/

/-- spec/20_memory.md R49: a host write to CMD is accepted when BUSY = 0 and ERR = 0, whatever the word, and otherwise
dropped; nothing else changes. -/
def Obligations.CommandWriteIsAcceptedOrDropped : Prop :=
  ∀ (s : State) (v : Word) (rest : List HostAction), s.bus = .write (wordAddr 0x0004) v :: rest →
    (s.busy = false → s.err = false →
      step s = .next { s with cmdreg := v, busy := true, done := false, bus := rest }) ∧
    (s.busy = true ∨ s.err = true → step s = .next { s with drop := true, bus := rest })

/-- R54, spec/60_exceptions.md R173: a host write to STATUS clears the flags whose bit is 1; bit 2 also clears ERRCODE and
ERRINFO; BUSY, T and everything else stay. -/
def Obligations.StatusWriteClearsFlags : Prop :=
  ∀ (s : State) (v : Word) (rest : List HostAction), s.bus = .write (wordAddr 0x0008) v :: rest →
    step s = .next { s with
      done := s.done && !v.getLsbD 1
      err := s.err && !v.getLsbD 2
      drop := s.drop && !v.getLsbD 4
      accv := s.accv && !v.getLsbD 5
      errcode := if v.getLsbD 2 then none else s.errcode
      errinfo := if v.getLsbD 2 then 0 else s.errinfo
      bus := rest }

/-- R55, spec/10_state.md R17: a host write to CTRL sets the two enables at any time, and CTRL reads back their two bits
alone. -/
def Obligations.CtrlWriteSetsEnables : Prop :=
  ∀ (s : State) (v : Word) (rest : List HostAction), s.bus = .write (wordAddr 0x000C) v :: rest →
    ∃ t, step s = .next t ∧ t = { s with ieDone := v.getLsbD 0, ieErr := v.getLsbD 1, bus := rest } ∧
      t.peek (wordAddr 0x000C) = v &&& 3

/-- spec/10_state.md R24: `irq` is the enabled OR of DONE and ERR, and falls when the host clears the bits or the enables. -/
def Obligations.IrqIsTheEnabledOr : Prop :=
  (∀ s : State, s.irq = true ↔ (s.done = true ∧ s.ieDone = true) ∨ (s.err = true ∧ s.ieErr = true)) ∧
  (∀ (s : State) (rest : List HostAction), s.bus = .write (wordAddr 0x0008) 6 :: rest →
    ∃ t, step s = .next t ∧ t.irq = false) ∧
  (∀ (s : State) (rest : List HostAction), s.bus = .write (wordAddr 0x000C) 0 :: rest →
    ∃ t, step s = .next t ∧ t.irq = false)

/-- R25: the value of every piece of state after reset. The last clause is the model's choice and not R25's: State.reset is
the block of the default width of R4 (log 1, DESIGN CHOICE). -/
def Obligations.ResetStateIsAsTabled : Prop :=
  (∀ r, State.reset.readB r = 0) ∧ (∀ r, State.reset.readP r = { inf := true, x := 0, y := 0 }) ∧
  State.reset.busy = false ∧ State.reset.done = false ∧ State.reset.err = false ∧ State.reset.tflag = false ∧
  State.reset.drop = false ∧ State.reset.accv = false ∧ State.reset.ieDone = false ∧ State.reset.ieErr = false ∧
  State.reset.irq = false ∧ State.reset.cmdreg = 0 ∧ State.reset.errcode = none ∧ State.reset.errinfo = 0 ∧
  State.reset.cfg.W = 2048

/-- spec/70_reset_and_hazards.md R190, R191: reset gives every register its value of R25, also while a command is running,
which is then abandoned with no fault recorded. -/
def Obligations.ResetAbandonsEverything : Prop :=
  ∀ (s : State) (rest : List HostAction), s.bus = .reset :: rest →
    ∃ t, step s = .next t ∧ (∀ r, t.readB r = 0) ∧ (∀ r, t.readP r = { inf := true, x := 0, y := 0 }) ∧
      t.statusWord = 0 ∧ t.ctrlWord = 0 ∧ t.busy = false ∧ t.cmdreg = 0 ∧ t.errcode = none ∧ t.errinfo = 0 ∧
      t.irq = false ∧ t.cfg = s.cfg ∧ t.bus = rest

/-- R21, R22: the identification, parameter and curve words read their constants at any time, and a write to them changes
nothing. -/
def Obligations.ConstantWordsNeverChange : Prop :=
  ∀ (s : State) (off : Nat) (c : Word) (rest : List HostAction),
    (off, c) ∈ [(0x0000, 0x45434D31#32), (0x0018, BitVec.ofNat 32 s.cfg.W), (0x001C, 0x01000408#32)] ++
      (List.range 8).map (fun j => (0x0100 + 4 * j, BitVec.ofNat 32 (Curve.P / 2 ^ (32 * j)))) ++
      (List.range 8).map (fun j => (0x0120 + 4 * j, BitVec.ofNat 32 (Curve.N / 2 ^ (32 * j)))) ++
      (List.range 8).map (fun j => (0x0140 + 4 * j, BitVec.ofNat 32 (Curve.A / 2 ^ (32 * j)))) ++
      (List.range 8).map (fun j => (0x0160 + 4 * j, BitVec.ofNat 32 (Curve.B / 2 ^ (32 * j)))) ++
      (List.range 8).map (fun j => (0x0180 + 4 * j, BitVec.ofNat 32 (Curve.Gx / 2 ^ (32 * j)))) ++
      (List.range 8).map (fun j => (0x01A0 + 4 * j, BitVec.ofNat 32 (Curve.Gy / 2 ^ (32 * j)))) →
    (s.bus = .read (wordAddr off) :: rest → step s = .next { s with rdata := c, bus := rest }) ∧
    (∀ v, s.bus = .write (wordAddr off) v :: rest → step s = .next { s with bus := rest })

/-- R41, R46: a host read returns the word's current value and changes nothing else; a locked read returns 0 and sets ACCV. -/
def Obligations.ReadReturnsTheWord : Prop :=
  ∀ (s : State) (a : WordAddr) (rest : List HostAction), s.bus = .read a :: rest →
    (s.busy = true → 0x0200 ≤ a.offset → step s = .next { s with rdata := 0, accv := true, bus := rest }) ∧
    (s.busy = false ∨ a.offset < 0x0200 → step s = .next { s with rdata := s.peek a, bus := rest })

/-- R43, R16, R19, R44: what each word of the map holds, for every legal `W`. -/
def Obligations.RegisterMapShowsEveryRegister : Prop :=
  ∀ s : State, s.cfg.Legal →
    s.peek (wordAddr 0x0004) = s.cmdreg ∧
    (∀ n, (s.peek (wordAddr 0x0008)).getLsbD n = [s.busy, s.done, s.err, s.tflag, s.drop, s.accv].getD n false) ∧
    (∀ n, (s.peek (wordAddr 0x000C)).getLsbD n = [s.ieDone, s.ieErr].getD n false) ∧
    (s.peek (wordAddr 0x0010)).toNat = (match s.errcode with | none => 0 | some c => c.code.toNat) ∧
    s.peek (wordAddr 0x0014) = s.errinfo ∧
    (∀ (i : PReg) (j : Nat), j < 8 →
      (s.peek (wordAddr (0x0200 + 0x80 * i.val + 4 * j))).toNat = (s.readP i).x.toNat / 2 ^ (32 * j) % 2 ^ 32 ∧
      (s.peek (wordAddr (0x0220 + 0x80 * i.val + 4 * j))).toNat = (s.readP i).y.toNat / 2 ^ (32 * j) % 2 ^ 32) ∧
    (∀ i : PReg, (s.peek (wordAddr (0x0240 + 0x80 * i.val))).toNat = (s.readP i).inf.toNat) ∧
    (∀ (i : BReg) (j : Nat), j < s.cfg.W / 32 →
      (s.peek (wordAddr (0x1000 + s.cfg.W / 8 * i.val + 4 * j))).toNat = s.readB i / 2 ^ (32 * j) % 2 ^ 32)

/-- R47, R43, R48: a reserved word reads 0 and ignores writes; in the data region while BUSY = 1 it sets ACCV too. -/
def Obligations.ReservedWordsReadZero : Prop :=
  ∀ (s : State) (a : WordAddr) (rest : List HostAction), s.cfg.Legal →
    (0x0020 ≤ a.offset ∧ a.offset < 0x0100) ∨ (0x01C0 ≤ a.offset ∧ a.offset < 0x0200) ∨
      (∃ i : PReg, 0x0244 + 0x80 * i.val ≤ a.offset ∧ a.offset < 0x0280 + 0x80 * i.val) ∨
      (0x0400 ≤ a.offset ∧ a.offset < 0x1000) ∨ 0x1000 + s.cfg.W ≤ a.offset →
    (s.bus = .read a :: rest →
      step s = .next { s with rdata := 0, accv := s.accv || s.busy && decide (0x0200 ≤ a.offset), bus := rest }) ∧
    (∀ v, s.bus = .write a v :: rest →
      step s = .next { s with accv := s.accv || s.busy && decide (0x0200 ≤ a.offset), bus := rest })

/-- R48: while BUSY = 1 a data-region access is refused and sets ACCV; a control-region read is unaffected. -/
def Obligations.DataRegionIsLockedWhileBusy : Prop :=
  ∀ (s : State) (a : WordAddr) (rest : List HostAction), s.busy = true →
    (0x0200 ≤ a.offset → s.bus = .read a :: rest → step s = .next { s with rdata := 0, accv := true, bus := rest }) ∧
    (∀ v, 0x0200 ≤ a.offset → s.bus = .write a v :: rest → step s = .next { s with accv := true, bus := rest }) ∧
    (a.offset < 0x0200 → s.bus = .read a :: rest → step s = .next { s with rdata := s.peek a, bus := rest })

/-- R42 (5), R44: "A limb write replaces exactly the 32 bits of that limb; the other limbs of the register keep their
values", and nothing else changes: of a big integer, of each coordinate, and the `inf` bit. -/
def Obligations.LimbWriteReplacesThatLimb : Prop :=
  ∀ (s : State) (v : Word) (rest : List HostAction), s.cfg.Legal → s.busy = false →
    (∀ (i : BReg) (j : Nat), j < s.cfg.W / 32 → s.bus = .write (wordAddr (bOffset s.cfg.W i j)) v :: rest →
      ∃ n, step s = .next { s.writeB i n with bus := rest } ∧ limb n j = v ∧ ∀ k, k ≠ j → limb n k = limb (s.readB i) k) ∧
    (∀ (i : PReg) (j : Nat), j < 8 → s.bus = .write (wordAddr (pxOffset i j)) v :: rest →
      ∃ c : Coord, step s = .next { s.writeP i { s.readP i with x := c } with bus := rest } ∧ limb c.toNat j = v ∧
        ∀ k, k ≠ j → limb c.toNat k = limb (s.readP i).x.toNat k) ∧
    (∀ (i : PReg) (j : Nat), j < 8 → s.bus = .write (wordAddr (pyOffset i j)) v :: rest →
      ∃ c : Coord, step s = .next { s.writeP i { s.readP i with y := c } with bus := rest } ∧ limb c.toNat j = v ∧
        ∀ k, k ≠ j → limb c.toNat k = limb (s.readP i).y.toNat k) ∧
    (∀ i : PReg, s.bus = .write (wordAddr (pinfOffset i)) v :: rest →
      step s = .next { s.writeP i { s.readP i with inf := v.getLsbD 0 } with bus := rest })

/-- R42, R44, R47: a host write to the data region changes the value of no other word of the map. -/
def Obligations.DataWriteLeavesOtherWords : Prop :=
  ∀ (s : State) (a a' : WordAddr) (v : Word) (rest : List HostAction), s.cfg.Legal → s.busy = false →
    0x0200 ≤ a.offset → a' ≠ a → s.bus = .write a v :: rest → ∃ t, step s = .next t ∧ t.peek a' = s.peek a'

/-! ## Whole-machine rules -/

/-- spec/60_exceptions.md R174: while the latch is set, in a legal handshake, a step that is neither reset nor a STATUS write
with bit 2 keeps ERR, ERRCODE, ERRINFO and CMDREG, and starts no command. -/
def Obligations.FaultLatchHolds : Prop :=
  ∀ s t : State, HandshakeLegal s → s.err = true → step s = .next t →
    (∀ v rest, s.bus = .write (wordAddr 0x0008) v :: rest → v.getLsbD 2 = false) →
    (∀ rest, s.bus ≠ .reset :: rest) →
    t.err = true ∧ t.errcode = s.errcode ∧ t.errinfo = s.errinfo ∧ t.cmdreg = s.cmdreg ∧ t.busy = false

/-- spec/10_state.md R15: T changes only in reset or when PCHK, QRT or RVFY completes with success. -/
def Obligations.OnlyPredicatesWriteT : Prop :=
  ∀ s t : State, step s = .next t → t.tflag ≠ s.tflag →
    (∃ rest, s.bus = .reset :: rest) ∨
    (s.busy = true ∧ t.busy = false ∧ t.errcode = s.errcode ∧
      ∃ i, decode s.cmdreg = .ok i ∧
        ((∃ pa, i = .pchk pa) ∨ (∃ ba bp, i = .qrt ba bp) ∨ (∃ bs bh bn, i = .rvfy bs bh bn)))

/-- R26, spec/70_reset_and_hazards.md R202: a data register changes only in reset, by a host write to one of its own words
while BUSY = 0, or as the destination of a command that completes with success. -/
def Obligations.RegistersChangeOnlyAsNamed : Prop :=
  ∀ s t : State, s.cfg.Legal → step s = .next t →
    (∀ r, t.readB r ≠ s.readB r →
      (∃ rest, s.bus = .reset :: rest) ∨
      (s.busy = false ∧ ∃ a v rest, s.bus = .write a v :: rest ∧ 0x1000 + s.cfg.W / 8 * r.val ≤ a.offset ∧
        a.offset < 0x1000 + s.cfg.W / 8 * (r.val + 1)) ∨
      (s.busy = true ∧ t.errcode = s.errcode ∧ ∃ i, decode s.cmdreg = .ok i ∧ destB i = some r)) ∧
    (∀ r, t.readP r ≠ s.readP r →
      (∃ rest, s.bus = .reset :: rest) ∨
      (s.busy = false ∧ ∃ a v rest, s.bus = .write a v :: rest ∧ 0x0200 + 0x80 * r.val ≤ a.offset ∧
        a.offset < 0x0244 + 0x80 * r.val) ∨
      (s.busy = true ∧ t.errcode = s.errcode ∧ ∃ i, decode s.cmdreg = .ok i ∧ destP i = some r))

/-- R12, R16, R19, R20, spec/00_scope.md R4, R7: every step, from every state that meets it, keeps the invariant (a legal `W`,
registers of `W` bits, the legal flag combinations, ERRCODE and ERRINFO as ERR says) and the configuration. -/
def Obligations.StepKeepsTheInvariant : Prop :=
  ∀ s t : State, Inv s → step s = .next t → Inv t ∧ t.cfg = s.cfg

/-- spec/60_exceptions.md R160: the numbers of the faults that the block raises, and of the two reserved ones. -/
def Obligations.FaultCodesAreAsTabled : Prop :=
  FaultCode.divisionByZero.code = 0x01 ∧ FaultCode.invalidScalar.code = 0x02 ∧
  FaultCode.signatureSearchExhausted.code = 0x03 ∧ FaultCode.verificationFailure.code = 0x04 ∧
  FaultCode.invalidKeyPair.code = 0x05 ∧ FaultCode.illegalCommand.code = 0x10 ∧ FaultCode.operandRange.code = 0x11 ∧
  FaultCode.invalidPoint.code = 0x12 ∧ FaultCode.notInvertible.code = 0x13

/-- The invariant holds after reset. -/
def Obligations.ResetMeetsTheInvariant : Prop := Inv State.reset

/-- spec/70_reset_and_hazards.md R201, R200: every command completes. From every state, when the host's actions have run out
and the engine has had its turn, no command is pending. -/
def Obligations.NoCommandStaysPending : Prop :=
  ∀ s : State, ∃ t, Host.Core.run Sys2Proof.core (s.bus.length + 1) s = .next t ∧ t.bus = [] ∧ t.busy = false

/-- spec/30_encoding.md R71: `WRB bi, v` writes `v` into `b<i>` and changes nothing else, upper limbs included. -/
def Obligations.WrbLoadsTheRegister : Prop :=
  ∀ (s : State) (i : BReg) (v : Nat) (rest : List HostAction), s.cfg.Legal → Fits s → s.busy = false →
    v < 2 ^ s.cfg.W → s.bus = wrb s.cfg.W i v ++ rest →
    Host.Core.run Sys2Proof.core (s.cfg.W / 32) s = .next { s.writeB i v with bus := rest }

/-- R71, spec/70_reset_and_hazards.md R200: `ISSUE <command> ; WAIT` runs the command, and however many polls come before
the engine moves, the state after it is the same: the accepted command's exec, STATUS in `rdata`. -/
def Obligations.IssueAndWaitRunsTheCommand : Prop :=
  ∀ (s : State) (i : Instr) (n : Nat) (rest : List HostAction), i.WellFormed → s.busy = false → s.err = false →
    s.bus = issue i :: (wait n ++ rest) →
    ∃ u, exec i { s.accept (encode i) with bus := rest } = .next u ∧
      Host.Core.run Sys2Proof.core (n + 3) s = .next { u with rdata := u.statusWord }
end

