-- ==== Sys2Proof/Laws/State.lean ====
section
/-! SUPPORT. One lemma per field per update of State, true by rfl, and the read-after-write laws of the two register
files, so that no later proof unfolds a record update. -/

-- One theorem after the other: a thread for each would exceed the memory the check allows.
set_option Elab.async false

namespace Sys2Proof.Machine

namespace State

variable (s : State)

/-! ### writeB -/

@[simp] theorem writeB_cfg (i : BReg) (v : Nat) : (s.writeB i v).cfg = s.cfg := rfl
@[simp] theorem writeB_b (i : BReg) (v : Nat) : (s.writeB i v).b = s.b.set i.val v i.isLt := rfl
@[simp] theorem writeB_p (i : BReg) (v : Nat) : (s.writeB i v).p = s.p := rfl
@[simp] theorem writeB_busy (i : BReg) (v : Nat) : (s.writeB i v).busy = s.busy := rfl
@[simp] theorem writeB_done (i : BReg) (v : Nat) : (s.writeB i v).done = s.done := rfl
@[simp] theorem writeB_err (i : BReg) (v : Nat) : (s.writeB i v).err = s.err := rfl
@[simp] theorem writeB_tflag (i : BReg) (v : Nat) : (s.writeB i v).tflag = s.tflag := rfl
@[simp] theorem writeB_drop (i : BReg) (v : Nat) : (s.writeB i v).drop = s.drop := rfl
@[simp] theorem writeB_accv (i : BReg) (v : Nat) : (s.writeB i v).accv = s.accv := rfl
@[simp] theorem writeB_ieDone (i : BReg) (v : Nat) : (s.writeB i v).ieDone = s.ieDone := rfl
@[simp] theorem writeB_ieErr (i : BReg) (v : Nat) : (s.writeB i v).ieErr = s.ieErr := rfl
@[simp] theorem writeB_cmdreg (i : BReg) (v : Nat) : (s.writeB i v).cmdreg = s.cmdreg := rfl
@[simp] theorem writeB_errcode (i : BReg) (v : Nat) : (s.writeB i v).errcode = s.errcode := rfl
@[simp] theorem writeB_errinfo (i : BReg) (v : Nat) : (s.writeB i v).errinfo = s.errinfo := rfl
@[simp] theorem writeB_rdata (i : BReg) (v : Nat) : (s.writeB i v).rdata = s.rdata := rfl
@[simp] theorem writeB_bus (i : BReg) (v : Nat) : (s.writeB i v).bus = s.bus := rfl

/-! ### writeP -/

@[simp] theorem writeP_cfg (i : PReg) (q : Point) : (s.writeP i q).cfg = s.cfg := rfl
@[simp] theorem writeP_b (i : PReg) (q : Point) : (s.writeP i q).b = s.b := rfl
@[simp] theorem writeP_p (i : PReg) (q : Point) : (s.writeP i q).p = s.p.set i.val q i.isLt := rfl
@[simp] theorem writeP_busy (i : PReg) (q : Point) : (s.writeP i q).busy = s.busy := rfl
@[simp] theorem writeP_done (i : PReg) (q : Point) : (s.writeP i q).done = s.done := rfl
@[simp] theorem writeP_err (i : PReg) (q : Point) : (s.writeP i q).err = s.err := rfl
@[simp] theorem writeP_tflag (i : PReg) (q : Point) : (s.writeP i q).tflag = s.tflag := rfl
@[simp] theorem writeP_drop (i : PReg) (q : Point) : (s.writeP i q).drop = s.drop := rfl
@[simp] theorem writeP_accv (i : PReg) (q : Point) : (s.writeP i q).accv = s.accv := rfl
@[simp] theorem writeP_ieDone (i : PReg) (q : Point) : (s.writeP i q).ieDone = s.ieDone := rfl
@[simp] theorem writeP_ieErr (i : PReg) (q : Point) : (s.writeP i q).ieErr = s.ieErr := rfl
@[simp] theorem writeP_cmdreg (i : PReg) (q : Point) : (s.writeP i q).cmdreg = s.cmdreg := rfl
@[simp] theorem writeP_errcode (i : PReg) (q : Point) : (s.writeP i q).errcode = s.errcode := rfl
@[simp] theorem writeP_errinfo (i : PReg) (q : Point) : (s.writeP i q).errinfo = s.errinfo := rfl
@[simp] theorem writeP_rdata (i : PReg) (q : Point) : (s.writeP i q).rdata = s.rdata := rfl
@[simp] theorem writeP_bus (i : PReg) (q : Point) : (s.writeP i q).bus = s.bus := rfl

/-! ### writeT -/

@[simp] theorem writeT_cfg (v : Bool) : (s.writeT v).cfg = s.cfg := rfl
@[simp] theorem writeT_b (v : Bool) : (s.writeT v).b = s.b := rfl
@[simp] theorem writeT_p (v : Bool) : (s.writeT v).p = s.p := rfl
@[simp] theorem writeT_busy (v : Bool) : (s.writeT v).busy = s.busy := rfl
@[simp] theorem writeT_done (v : Bool) : (s.writeT v).done = s.done := rfl
@[simp] theorem writeT_err (v : Bool) : (s.writeT v).err = s.err := rfl
@[simp] theorem writeT_tflag (v : Bool) : (s.writeT v).tflag = v := rfl
@[simp] theorem writeT_drop (v : Bool) : (s.writeT v).drop = s.drop := rfl
@[simp] theorem writeT_accv (v : Bool) : (s.writeT v).accv = s.accv := rfl
@[simp] theorem writeT_ieDone (v : Bool) : (s.writeT v).ieDone = s.ieDone := rfl
@[simp] theorem writeT_ieErr (v : Bool) : (s.writeT v).ieErr = s.ieErr := rfl
@[simp] theorem writeT_cmdreg (v : Bool) : (s.writeT v).cmdreg = s.cmdreg := rfl
@[simp] theorem writeT_errcode (v : Bool) : (s.writeT v).errcode = s.errcode := rfl
@[simp] theorem writeT_errinfo (v : Bool) : (s.writeT v).errinfo = s.errinfo := rfl
@[simp] theorem writeT_rdata (v : Bool) : (s.writeT v).rdata = s.rdata := rfl
@[simp] theorem writeT_bus (v : Bool) : (s.writeT v).bus = s.bus := rfl

/-! ### accept -/

@[simp] theorem accept_cfg (v : Word) : (s.accept v).cfg = s.cfg := rfl
@[simp] theorem accept_b (v : Word) : (s.accept v).b = s.b := rfl
@[simp] theorem accept_p (v : Word) : (s.accept v).p = s.p := rfl
@[simp] theorem accept_busy (v : Word) : (s.accept v).busy = true := rfl
@[simp] theorem accept_done (v : Word) : (s.accept v).done = false := rfl
@[simp] theorem accept_err (v : Word) : (s.accept v).err = s.err := rfl
@[simp] theorem accept_tflag (v : Word) : (s.accept v).tflag = s.tflag := rfl
@[simp] theorem accept_drop (v : Word) : (s.accept v).drop = s.drop := rfl
@[simp] theorem accept_accv (v : Word) : (s.accept v).accv = s.accv := rfl
@[simp] theorem accept_ieDone (v : Word) : (s.accept v).ieDone = s.ieDone := rfl
@[simp] theorem accept_ieErr (v : Word) : (s.accept v).ieErr = s.ieErr := rfl
@[simp] theorem accept_cmdreg (v : Word) : (s.accept v).cmdreg = v := rfl
@[simp] theorem accept_errcode (v : Word) : (s.accept v).errcode = s.errcode := rfl
@[simp] theorem accept_errinfo (v : Word) : (s.accept v).errinfo = s.errinfo := rfl
@[simp] theorem accept_rdata (v : Word) : (s.accept v).rdata = s.rdata := rfl
@[simp] theorem accept_bus (v : Word) : (s.accept v).bus = s.bus := rfl

/-! ### dropWrite -/

@[simp] theorem dropWrite_cfg : (s.dropWrite).cfg = s.cfg := rfl
@[simp] theorem dropWrite_b : (s.dropWrite).b = s.b := rfl
@[simp] theorem dropWrite_p : (s.dropWrite).p = s.p := rfl
@[simp] theorem dropWrite_busy : (s.dropWrite).busy = s.busy := rfl
@[simp] theorem dropWrite_done : (s.dropWrite).done = s.done := rfl
@[simp] theorem dropWrite_err : (s.dropWrite).err = s.err := rfl
@[simp] theorem dropWrite_tflag : (s.dropWrite).tflag = s.tflag := rfl
@[simp] theorem dropWrite_drop : (s.dropWrite).drop = true := rfl
@[simp] theorem dropWrite_accv : (s.dropWrite).accv = s.accv := rfl
@[simp] theorem dropWrite_ieDone : (s.dropWrite).ieDone = s.ieDone := rfl
@[simp] theorem dropWrite_ieErr : (s.dropWrite).ieErr = s.ieErr := rfl
@[simp] theorem dropWrite_cmdreg : (s.dropWrite).cmdreg = s.cmdreg := rfl
@[simp] theorem dropWrite_errcode : (s.dropWrite).errcode = s.errcode := rfl
@[simp] theorem dropWrite_errinfo : (s.dropWrite).errinfo = s.errinfo := rfl
@[simp] theorem dropWrite_rdata : (s.dropWrite).rdata = s.rdata := rfl
@[simp] theorem dropWrite_bus : (s.dropWrite).bus = s.bus := rfl

/-! ### complete -/

@[simp] theorem complete_cfg : (s.complete).cfg = s.cfg := rfl
@[simp] theorem complete_b : (s.complete).b = s.b := rfl
@[simp] theorem complete_p : (s.complete).p = s.p := rfl
@[simp] theorem complete_busy : (s.complete).busy = false := rfl
@[simp] theorem complete_done : (s.complete).done = true := rfl
@[simp] theorem complete_err : (s.complete).err = s.err := rfl
@[simp] theorem complete_tflag : (s.complete).tflag = s.tflag := rfl
@[simp] theorem complete_drop : (s.complete).drop = s.drop := rfl
@[simp] theorem complete_accv : (s.complete).accv = s.accv := rfl
@[simp] theorem complete_ieDone : (s.complete).ieDone = s.ieDone := rfl
@[simp] theorem complete_ieErr : (s.complete).ieErr = s.ieErr := rfl
@[simp] theorem complete_cmdreg : (s.complete).cmdreg = s.cmdreg := rfl
@[simp] theorem complete_errcode : (s.complete).errcode = s.errcode := rfl
@[simp] theorem complete_errinfo : (s.complete).errinfo = s.errinfo := rfl
@[simp] theorem complete_rdata : (s.complete).rdata = s.rdata := rfl
@[simp] theorem complete_bus : (s.complete).bus = s.bus := rfl

/-! ### takeFault -/

@[simp] theorem takeFault_cfg (c : FaultCode) : (s.takeFault c).cfg = s.cfg := rfl
@[simp] theorem takeFault_b (c : FaultCode) : (s.takeFault c).b = s.b := rfl
@[simp] theorem takeFault_p (c : FaultCode) : (s.takeFault c).p = s.p := rfl
@[simp] theorem takeFault_busy (c : FaultCode) : (s.takeFault c).busy = false := rfl
@[simp] theorem takeFault_done (c : FaultCode) : (s.takeFault c).done = true := rfl
@[simp] theorem takeFault_err (c : FaultCode) : (s.takeFault c).err = true := rfl
@[simp] theorem takeFault_tflag (c : FaultCode) : (s.takeFault c).tflag = s.tflag := rfl
@[simp] theorem takeFault_drop (c : FaultCode) : (s.takeFault c).drop = s.drop := rfl
@[simp] theorem takeFault_accv (c : FaultCode) : (s.takeFault c).accv = s.accv := rfl
@[simp] theorem takeFault_ieDone (c : FaultCode) : (s.takeFault c).ieDone = s.ieDone := rfl
@[simp] theorem takeFault_ieErr (c : FaultCode) : (s.takeFault c).ieErr = s.ieErr := rfl
@[simp] theorem takeFault_cmdreg (c : FaultCode) : (s.takeFault c).cmdreg = s.cmdreg := rfl
@[simp] theorem takeFault_errcode (c : FaultCode) : (s.takeFault c).errcode = some c := rfl
@[simp] theorem takeFault_errinfo (c : FaultCode) : (s.takeFault c).errinfo = s.cmdreg := rfl
@[simp] theorem takeFault_rdata (c : FaultCode) : (s.takeFault c).rdata = s.rdata := rfl
@[simp] theorem takeFault_bus (c : FaultCode) : (s.takeFault c).bus = s.bus := rfl

/-! ### faultReturn -/

@[simp] theorem faultReturn_cfg : (s.faultReturn).cfg = s.cfg := rfl
@[simp] theorem faultReturn_b : (s.faultReturn).b = s.b := rfl
@[simp] theorem faultReturn_p : (s.faultReturn).p = s.p := rfl
@[simp] theorem faultReturn_busy : (s.faultReturn).busy = s.busy := rfl
@[simp] theorem faultReturn_done : (s.faultReturn).done = s.done := rfl
@[simp] theorem faultReturn_err : (s.faultReturn).err = false := rfl
@[simp] theorem faultReturn_tflag : (s.faultReturn).tflag = s.tflag := rfl
@[simp] theorem faultReturn_drop : (s.faultReturn).drop = s.drop := rfl
@[simp] theorem faultReturn_accv : (s.faultReturn).accv = s.accv := rfl
@[simp] theorem faultReturn_ieDone : (s.faultReturn).ieDone = s.ieDone := rfl
@[simp] theorem faultReturn_ieErr : (s.faultReturn).ieErr = s.ieErr := rfl
@[simp] theorem faultReturn_cmdreg : (s.faultReturn).cmdreg = s.cmdreg := rfl
@[simp] theorem faultReturn_errcode : (s.faultReturn).errcode = none := rfl
@[simp] theorem faultReturn_errinfo : (s.faultReturn).errinfo = 0 := rfl
@[simp] theorem faultReturn_rdata : (s.faultReturn).rdata = s.rdata := rfl
@[simp] theorem faultReturn_bus : (s.faultReturn).bus = s.bus := rfl

/-! ### writeCtrl -/

@[simp] theorem writeCtrl_cfg (v : Word) : (s.writeCtrl v).cfg = s.cfg := rfl
@[simp] theorem writeCtrl_b (v : Word) : (s.writeCtrl v).b = s.b := rfl
@[simp] theorem writeCtrl_p (v : Word) : (s.writeCtrl v).p = s.p := rfl
@[simp] theorem writeCtrl_busy (v : Word) : (s.writeCtrl v).busy = s.busy := rfl
@[simp] theorem writeCtrl_done (v : Word) : (s.writeCtrl v).done = s.done := rfl
@[simp] theorem writeCtrl_err (v : Word) : (s.writeCtrl v).err = s.err := rfl
@[simp] theorem writeCtrl_tflag (v : Word) : (s.writeCtrl v).tflag = s.tflag := rfl
@[simp] theorem writeCtrl_drop (v : Word) : (s.writeCtrl v).drop = s.drop := rfl
@[simp] theorem writeCtrl_accv (v : Word) : (s.writeCtrl v).accv = s.accv := rfl
@[simp] theorem writeCtrl_ieDone (v : Word) : (s.writeCtrl v).ieDone = v.getLsbD 0 := rfl
@[simp] theorem writeCtrl_ieErr (v : Word) : (s.writeCtrl v).ieErr = v.getLsbD 1 := rfl
@[simp] theorem writeCtrl_cmdreg (v : Word) : (s.writeCtrl v).cmdreg = s.cmdreg := rfl
@[simp] theorem writeCtrl_errcode (v : Word) : (s.writeCtrl v).errcode = s.errcode := rfl
@[simp] theorem writeCtrl_errinfo (v : Word) : (s.writeCtrl v).errinfo = s.errinfo := rfl
@[simp] theorem writeCtrl_rdata (v : Word) : (s.writeCtrl v).rdata = s.rdata := rfl
@[simp] theorem writeCtrl_bus (v : Word) : (s.writeCtrl v).bus = s.bus := rfl

/-! ### writeStatus -/

@[simp] theorem writeStatus_cfg (v : Word) : (s.writeStatus v).cfg = s.cfg := by
  unfold writeStatus; split <;> simp_all
@[simp] theorem writeStatus_b (v : Word) : (s.writeStatus v).b = s.b := by
  unfold writeStatus; split <;> simp_all
@[simp] theorem writeStatus_p (v : Word) : (s.writeStatus v).p = s.p := by
  unfold writeStatus; split <;> simp_all
@[simp] theorem writeStatus_busy (v : Word) : (s.writeStatus v).busy = s.busy := by
  unfold writeStatus; split <;> simp_all
@[simp] theorem writeStatus_done (v : Word) : (s.writeStatus v).done = (s.done && !v.getLsbD 1) := rfl
@[simp] theorem writeStatus_err (v : Word) : (s.writeStatus v).err = (s.err && !v.getLsbD 2) := by
  unfold writeStatus; split <;> simp_all
@[simp] theorem writeStatus_tflag (v : Word) : (s.writeStatus v).tflag = s.tflag := by
  unfold writeStatus; split <;> simp_all
@[simp] theorem writeStatus_drop (v : Word) : (s.writeStatus v).drop = (s.drop && !v.getLsbD 4) := rfl
@[simp] theorem writeStatus_accv (v : Word) : (s.writeStatus v).accv = (s.accv && !v.getLsbD 5) := rfl
@[simp] theorem writeStatus_ieDone (v : Word) : (s.writeStatus v).ieDone = s.ieDone := by
  unfold writeStatus; split <;> simp_all
@[simp] theorem writeStatus_ieErr (v : Word) : (s.writeStatus v).ieErr = s.ieErr := by
  unfold writeStatus; split <;> simp_all
@[simp] theorem writeStatus_cmdreg (v : Word) : (s.writeStatus v).cmdreg = s.cmdreg := by
  unfold writeStatus; split <;> simp_all
@[simp] theorem writeStatus_errcode (v : Word) : (s.writeStatus v).errcode = (if v.getLsbD 2 then none else s.errcode) := by
  unfold writeStatus; split <;> simp_all
@[simp] theorem writeStatus_errinfo (v : Word) : (s.writeStatus v).errinfo = (if v.getLsbD 2 then 0 else s.errinfo) := by
  unfold writeStatus; split <;> simp_all
@[simp] theorem writeStatus_rdata (v : Word) : (s.writeStatus v).rdata = s.rdata := by
  unfold writeStatus; split <;> simp_all
@[simp] theorem writeStatus_bus (v : Word) : (s.writeStatus v).bus = s.bus := by
  unfold writeStatus; split <;> simp_all

/-! ### Reading registers -/

/-- A register reads as the file holds it, so an update that keeps the file keeps every register. -/
theorem readB_eq (i : BReg) : s.readB i = s.b[i.val] := rfl

theorem readP_eq (i : PReg) : s.readP i = s.p[i.val] := rfl

@[simp] theorem readB_writeB (i j : BReg) (v : Nat) :
    (s.writeB i v).readB j = if i = j then v else s.readB j := by
  simp [readB_eq, Vector.getElem_set, Fin.ext_iff]

@[simp] theorem readP_writeP (i j : PReg) (q : Point) :
    (s.writeP i q).readP j = if i = j then q else s.readP j := by
  simp [readP_eq, Vector.getElem_set, Fin.ext_iff]

theorem readB_writeB_same (i : BReg) (v : Nat) : (s.writeB i v).readB i = v := by simp

theorem readP_writeP_same (i : PReg) (q : Point) : (s.writeP i q).readP i = q := by simp

@[simp] theorem readP_writeB (i : BReg) (j : PReg) (v : Nat) : (s.writeB i v).readP j = s.readP j := rfl

@[simp] theorem readB_writeP (i : PReg) (j : BReg) (q : Point) : (s.writeP i q).readB j = s.readB j := rfl

@[simp] theorem readB_writeT (v : Bool) (i : BReg) : (s.writeT v).readB i = s.readB i := rfl
@[simp] theorem readP_writeT (v : Bool) (i : PReg) : (s.writeT v).readP i = s.readP i := rfl
@[simp] theorem readB_accept (v : Word) (i : BReg) : (s.accept v).readB i = s.readB i := rfl
@[simp] theorem readP_accept (v : Word) (i : PReg) : (s.accept v).readP i = s.readP i := rfl
@[simp] theorem readB_dropWrite (i : BReg) : (s.dropWrite).readB i = s.readB i := rfl
@[simp] theorem readP_dropWrite (i : PReg) : (s.dropWrite).readP i = s.readP i := rfl
@[simp] theorem readB_complete (i : BReg) : (s.complete).readB i = s.readB i := rfl
@[simp] theorem readP_complete (i : PReg) : (s.complete).readP i = s.readP i := rfl
@[simp] theorem readB_takeFault (c : FaultCode) (i : BReg) : (s.takeFault c).readB i = s.readB i := rfl
@[simp] theorem readP_takeFault (c : FaultCode) (i : PReg) : (s.takeFault c).readP i = s.readP i := rfl
@[simp] theorem readB_faultReturn (i : BReg) : (s.faultReturn).readB i = s.readB i := rfl
@[simp] theorem readP_faultReturn (i : PReg) : (s.faultReturn).readP i = s.readP i := rfl
@[simp] theorem readB_writeCtrl (v : Word) (i : BReg) : (s.writeCtrl v).readB i = s.readB i := rfl
@[simp] theorem readP_writeCtrl (v : Word) (i : PReg) : (s.writeCtrl v).readP i = s.readP i := rfl
@[simp] theorem readB_writeStatus (v : Word) (i : BReg) : (s.writeStatus v).readB i = s.readB i := by
  simp [readB_eq]
@[simp] theorem readP_writeStatus (v : Word) (i : PReg) : (s.writeStatus v).readP i = s.readP i := by
  simp [readP_eq]

/-- The registers after reset (R25). -/
@[simp] theorem readB_initial (c : Config) (acts : List HostAction) (i : BReg) : (initial c acts).readB i = 0 := by
  simp [readB_eq, initial]

@[simp] theorem readP_initial (c : Config) (acts : List HostAction) (i : PReg) :
    (initial c acts).readP i = Point.infinity := by
  simp [readP_eq, initial]

end State

end Sys2Proof.Machine
end

