-- ==== Sys2Proof/Laws/Bus.lean ====
section
/-! SUPPORT. The register map and its accesses: the limb laws (spec/20_memory.md R44), where each register's words lie
(R43), and everything a read and a write can do (R41, R42, R48). -/

-- One theorem after the other: a thread for each would exceed the memory the check allows.
set_option Elab.async false

namespace Sys2Proof.Machine

/-! ## Limbs -/

/-- The value of a limb. -/
theorem limb_toNat (v j : Nat) : (limb v j).toNat = v / 2 ^ (32 * j) % 2 ^ 32 := by
  simp [limb]

theorem setLimb_lt_low (v j : Nat) (d : Word) :
    d.toNat * 2 ^ (32 * j) + v % 2 ^ (32 * j) < 2 ^ (32 * (j + 1)) := by
  have h1 := d.isLt
  have h2 := Nat.mod_lt v (Nat.two_pow_pos (32 * j))
  have h3 : 2 ^ (32 * (j + 1)) = 2 ^ 32 * 2 ^ (32 * j) := by rw [← Nat.pow_add]; congr 1; omega
  rw [h3]
  calc d.toNat * 2 ^ (32 * j) + v % 2 ^ (32 * j) < (d.toNat + 1) * 2 ^ (32 * j) := by rw [Nat.add_mul]; omega
    _ ≤ 2 ^ 32 * 2 ^ (32 * j) := Nat.mul_le_mul_right _ h1

/-- The written limb reads back (R44). -/
theorem limb_setLimb_same (v j : Nat) (d : Word) : limb (setLimb v j d) j = d := by
  apply BitVec.eq_of_toNat_eq
  rw [limb_toNat, setLimb]
  have h3 : 2 ^ (32 * (j + 1)) = 2 ^ 32 * 2 ^ (32 * j) := by rw [← Nat.pow_add]; congr 1; omega
  have hpos := Nat.two_pow_pos (32 * j)
  rw [h3]
  have : v / (2 ^ 32 * 2 ^ (32 * j)) * (2 ^ 32 * 2 ^ (32 * j)) + d.toNat * 2 ^ (32 * j) + v % 2 ^ (32 * j) =
      (v / (2 ^ 32 * 2 ^ (32 * j)) * 2 ^ 32 + d.toNat) * 2 ^ (32 * j) + v % 2 ^ (32 * j) := by ring
  rw [this, Nat.mul_comm _ (2 ^ (32 * j)), Nat.mul_add_div hpos, Nat.div_eq_of_lt (Nat.mod_lt v hpos)]
  have := d.isLt
  omega

/-- Every other limb keeps its value (R44). -/
theorem limb_setLimb_ne (v j k : Nat) (d : Word) (h : k ≠ j) : limb (setLimb v j d) k = limb v k := by
  apply BitVec.eq_of_toNat_eq
  rw [limb_toNat, limb_toNat, setLimb]
  have hv : v = v / 2 ^ (32 * (j + 1)) * 2 ^ (32 * (j + 1)) + v % 2 ^ (32 * (j + 1)) := by
    rw [Nat.mul_comm]; exact (Nat.div_add_mod _ _).symm
  rcases Nat.lt_or_gt_of_ne h with hk | hk
  · -- below: both values agree modulo the limb's weight
    obtain ⟨e, he⟩ : ∃ e, 32 * j = 32 * k + 32 + e := ⟨32 * j - 32 * k - 32, by omega⟩
    have key : ∀ a b : Nat, a % 2 ^ (32 * j) = b % 2 ^ (32 * j) →
        a / 2 ^ (32 * k) % 2 ^ 32 = b / 2 ^ (32 * k) % 2 ^ 32 := by
      intro a b hab
      have := congrArg (fun n => n % 2 ^ (32 * k + 32) / 2 ^ (32 * k)) hab
      rw [Nat.mod_mod_of_dvd _ (Nat.pow_dvd_pow 2 (by omega)), Nat.mod_mod_of_dvd _ (Nat.pow_dvd_pow 2 (by omega)),
        Nat.pow_add, Nat.mod_mul_right_div_self, Nat.mod_mul_right_div_self] at this
      exact this
    apply key
    have h3 : 2 ^ (32 * (j + 1)) = 2 ^ 32 * 2 ^ (32 * j) := by rw [← Nat.pow_add]; congr 1; omega
    rw [h3, ← Nat.mul_assoc, ← Nat.add_mul, Nat.mul_comm _ (2 ^ (32 * j)), Nat.mul_add_mod, Nat.mod_mod]
  · -- above: both values agree after the limb is divided out
    obtain ⟨e, he⟩ : ∃ e, 32 * k = 32 * (j + 1) + e := ⟨32 * k - 32 * (j + 1), by omega⟩
    congr 1
    rw [he, Nat.pow_add, ← Nat.div_div_eq_div_mul, ← Nat.div_div_eq_div_mul]
    congr 1
    rw [Nat.add_assoc, Nat.mul_comm _ (2 ^ (32 * (j + 1))), Nat.mul_add_div (Nat.two_pow_pos _),
      Nat.div_eq_of_lt (setLimb_lt_low v j d), Nat.add_zero]

/-- A limb write keeps the width (R12, R44). -/
theorem setLimb_lt {v j w : Nat} (d : Word) (hv : v < 2 ^ w) (hj : 32 * (j + 1) ≤ w) : setLimb v j d < 2 ^ w := by
  rw [setLimb, Nat.add_assoc]
  have hlow := setLimb_lt_low v j d
  obtain ⟨e, rfl⟩ : ∃ e, w = 32 * (j + 1) + e := ⟨w - 32 * (j + 1), by omega⟩
  rw [Nat.pow_add] at hv ⊢
  have hq : v / 2 ^ (32 * (j + 1)) < 2 ^ e := Nat.div_lt_of_lt_mul hv
  calc v / 2 ^ (32 * (j + 1)) * 2 ^ (32 * (j + 1)) + (d.toNat * 2 ^ (32 * j) + v % 2 ^ (32 * j))
      < (v / 2 ^ (32 * (j + 1)) + 1) * 2 ^ (32 * (j + 1)) := by rw [Nat.add_mul]; omega
    _ ≤ 2 ^ e * 2 ^ (32 * (j + 1)) := Nat.mul_le_mul_right _ hq
    _ = 2 ^ (32 * (j + 1)) * 2 ^ e := Nat.mul_comm _ _

/-- The value of a coordinate after a limb write: the narrowing loses nothing. -/
theorem setCoordLimb_toNat (c : Coord) (j : Nat) (d : Word) (hj : j < 8) :
    (setCoordLimb c j d).toNat = setLimb c.toNat j d := by
  rw [setCoordLimb, BitVec.toNat_ofNat, Nat.mod_eq_of_lt]
  exact setLimb_lt d c.isLt (by omega)

/-! ## Accesses -/

variable {s t : State}

/-- Everything a read can do (R41). -/
theorem busRead_cases (s : State) (a : WordAddr) :
    (s.locked a = true ∧ s.busRead a = { s with rdata := 0, accv := true }) ∨
    (s.locked a = false ∧ s.busRead a = { s with rdata := s.peek a }) := by
  unfold State.busRead
  by_cases h : s.locked a
  · exact .inl ⟨h, by rw [if_pos h]⟩
  · exact .inr ⟨by simpa using h, by rw [if_neg h]⟩

/-- Everything a write can do (R42): the lock first, then the word's own rule. -/
theorem busWrite_cases (s : State) (a : WordAddr) (v : Word) :
    (s.locked a = true ∧ s.busWrite a v = { s with accv := true }) ∨
    (s.locked a = false ∧ s.busWrite a v = s.writeWord (mapWord s.cfg.W a.offset) v) := by
  unfold State.busWrite
  by_cases h : s.locked a
  · exact .inl ⟨h, by rw [if_pos h]⟩
  · exact .inr ⟨by simpa using h, by rw [if_neg h]⟩

/-- Where a `b<i>` word lies: its limb index is below `W/32` (R43). -/
theorem mapWord_b_bound {W off : Nat} {i : BReg} {j : Nat} (hW : W % 32 = 0) (hpos : 0 < W)
    (h : mapWord W off = .b i j) : 32 * (j + 1) ≤ W := by
  unfold mapWord at h
  split at h
  · unfold dataWord at h
    split at h
    · split at h
      · unfold pointWord at h; repeat (first | split at h | cases h)
      · cases h
    · split at h
      · split at h
        · cases h
          have : (off - 0x1000) % (W / 8) < W / 8 := Nat.mod_lt _ (by omega)
          omega
        · cases h
      · cases h
  · unfold controlWord at h
    repeat (first | split at h | cases h)

end Sys2Proof.Machine
end

