-- ==== Sys2Proof/Laws/Integer.lean ====
section
/-! SUPPORT. What the integer functions compute: the bit length bounds a number, the square-and-multiply loop is the power
(spec/42_mod.md R112), and the Euclidean loop ends at the greatest common divisor with its Bézout factor (R111). -/

-- One theorem after the other: a thread for each would exceed the memory the check allows.
set_option Elab.async false

namespace Sys2Proof.Machine

/-! ## Bit length -/

theorem lt_two_pow_bitlen (v : Nat) : v < 2 ^ bitlen v := by
  unfold bitlen
  split
  · simp_all
  · exact Nat.lt_log2_self

/-- "Fits in `w` bits" by bit length and by value. -/
theorem bitlen_le_iff (v w : Nat) : bitlen v ≤ w ↔ v < 2 ^ w := by
  constructor
  · intro h
    exact Nat.lt_of_lt_of_le (lt_two_pow_bitlen v) (Nat.pow_le_pow_right (by decide) h)
  · intro h
    unfold bitlen
    split
    · exact Nat.zero_le w
    · rename_i hv
      exact (Nat.log2_lt hv).2 h

/-! ## Exponentiation -/

theorem modexpLoop_spec (b e m i : Nat) :
    ∀ r, r % m = b ^ (e / 2 ^ i) % m → r = r % m → modexpLoop b e m i r = b ^ e % m := by
  induction i with
  | zero =>
    intro r h hr
    rw [modexpLoop, hr, h]; simp
  | succ i ih =>
    intro r h hr
    have hsplit : e / 2 ^ i = 2 * (e / 2 ^ (i + 1)) + (e / 2 ^ i) % 2 := by
      rw [Nat.pow_succ, ← Nat.div_div_eq_div_mul]; omega
    have hsq : r * r % m = b ^ (2 * (e / 2 ^ (i + 1))) % m := by
      rw [Nat.mul_mod, h, ← Nat.mul_mod, ← Nat.pow_add]; congr 2; omega
    rw [modexpLoop]
    apply ih
    · by_cases hb : e.testBit i
      · have h1 : (e / 2 ^ i) % 2 = 1 := by
          rw [Nat.testBit_eq_decide_div_mod_eq] at hb; simpa using hb
        rw [if_pos hb, Nat.mod_mod, Nat.mul_mod, Nat.mod_mod, hsq, ← Nat.mul_mod, hsplit, h1, Nat.pow_succ b]
      · have h0 : (e / 2 ^ i) % 2 = 0 := by
          rw [Nat.testBit_eq_decide_div_mod_eq] at hb
          have : ¬ (e / 2 ^ i) % 2 = 1 := by simpa using hb
          omega
        rw [if_neg hb, Nat.mod_mod, hsq, hsplit, h0]; simp
    · split <;> rw [Nat.mod_mod]

/-- `modexp` is the power (R112), at every exponent and modulus. -/
theorem modexp_eq (b e m : Nat) : modexp b e m = b ^ e % m := by
  unfold modexp
  apply modexpLoop_spec
  · rw [Nat.mod_mod, Nat.div_eq_of_lt (lt_two_pow_bitlen e), Nat.pow_zero]
  · rw [Nat.mod_mod]

/-! ## Inverse -/

/-- The invariant of R111's loop and its exit: from `old_s·k ≡ old_r` and `s·k ≡ r` modulo `m`, with enough fuel, the
answer is the greatest common divisor of the two remainders and a Bézout factor of it. -/
theorem euclid_spec (k m : Int) (fuel : Nat) :
    ∀ (oldR r : Nat) (oldS s : Int), r < fuel → m ∣ oldS * k - oldR → m ∣ s * k - r →
      (euclid fuel oldR r oldS s).1 = Nat.gcd oldR r ∧
      m ∣ (euclid fuel oldR r oldS s).2 * k - (euclid fuel oldR r oldS s).1 := by
  induction fuel with
  | zero => intro _ _ _ _ h; omega
  | succ f ih =>
    intro oldR r oldS s hf h1 h2
    rw [euclid]
    by_cases hr : r = 0
    · subst hr; simpa using h1
    · rw [if_neg hr]
      have hmod : oldR - oldR / r * r = oldR % r := by
        have := Nat.div_add_mod oldR r
        rw [Nat.mul_comm] at this; omega
      have hlt : oldR % r < f := by
        have := Nat.mod_lt oldR (Nat.pos_of_ne_zero hr); omega
      have hcast : ((oldR % r : Nat) : Int) = oldR - ((oldR / r : Nat) : Int) * r := by
        have := congrArg (Nat.cast : Nat → Int) (Nat.div_add_mod oldR r)
        rw [Nat.cast_add, Nat.cast_mul] at this
        linarith
      have h3 : m ∣ (oldS - ((oldR / r : Nat) : Int) * s) * k - ((oldR % r : Nat) : Int) := by
        rw [hcast]
        have : (oldS - ((oldR / r : Nat) : Int) * s) * k - (oldR - ((oldR / r : Nat) : Int) * r)
            = (oldS * k - oldR) - ((oldR / r : Nat) : Int) * (s * k - r) := by ring
        rw [this]
        exact dvd_sub h1 (h2.mul_left _)
      have := ih r (oldR % r) s (oldS - ((oldR / r : Nat) : Int) * s) hlt h2 h3
      simp only [hmod]
      rw [Nat.gcd_comm oldR r, Nat.gcd_rec r oldR, Nat.gcd_comm (oldR % r) r]
      exact this

/-- The three outcomes of `inv` (R111). -/
theorem inv_cases (k m : Nat) (hm : 0 < m) :
    (k % m = 0 ∧ inv k m = .error .divisionByZero) ∨
    (k % m ≠ 0 ∧ Nat.gcd (k % m) m ≠ 1 ∧ inv k m = .error .notInvertible) ∨
    (k % m ≠ 0 ∧ Nat.gcd (k % m) m = 1 ∧ ∃ r, inv k m = .ok r ∧ r < m ∧ k * r % m = 1 % m) := by
  by_cases h0 : k % m = 0
  · exact .inl ⟨h0, by simp [inv, h0]⟩
  have hs := euclid_spec (k % m : Nat) m (m + 1) (k % m) m 1 0 (by omega) (by simp) (by simp)
  by_cases hg : Nat.gcd (k % m) m = 1
  · have hp : (0 : Int) < m := by exact_mod_cast hm
    have hd := hs.2
    rw [hs.1, hg] at hd
    have he : inv k m = .ok ((euclid (m + 1) (k % m) m 1 0).2 % (m : Int)).toNat := by
      simp [inv, h0, hs.1, hg]
    generalize (euclid (m + 1) (k % m) m 1 0).2 = e at hd he
    have hnn := Int.emod_nonneg e hp.ne'
    have hlt := Int.emod_lt_of_pos e hp
    refine .inr (.inr ⟨h0, hg, _, he, by omega, ?_⟩)
    have hcong : (k : Int) * (e % m) % m = 1 % m := by
      rw [Int.emod_eq_emod_iff_emod_sub_eq_zero]
      apply Int.emod_eq_zero_of_dvd
      have h1 : (m : Int) ∣ e - e % m := Int.dvd_self_sub_emod
      have h2 : (m : Int) ∣ k - ((k % m : Nat) : Int) := by rw [Int.natCast_mod]; exact Int.dvd_self_sub_emod
      have : (k : Int) * (e % m) - 1 = (e * ((k % m : Nat) : Int) - 1) + e * (k - ((k % m : Nat) : Int)) - k * (e - e % m) := by
        ring
      rw [this]
      exact dvd_sub (dvd_add (by simpa using hd) (h2.mul_left _)) (h1.mul_left _)
    zify
    rw [Int.toNat_of_nonneg hnn]
    exact hcong
  · exact .inr (.inl ⟨h0, hg, by simp only [inv, h0, hs.1, hg, if_false]⟩)

end Sys2Proof.Machine
end

