-- ==== Sys2Proof/Laws/Curve.lean ====
section
/-! SUPPORT. The field of the curve: `P` is prime (spec/00_scope.md R8), by a chain of Pocklington steps down to small
primes, so that every non-zero residue has an inverse (spec/41_ec.md R100 (d)); and what `checkPoints` answers (R90). -/

-- One theorem after the other: a thread for each would exceed the memory the check allows.
set_option Elab.async false

namespace Sys2Proof.Machine

/-! ## Primality -/

/-- Pocklington's step: a unit `b` of order the prime `f` modulo every prime factor of `n`, with `f` above the square root
of `n`, makes `n` prime. -/
theorem prime_of_pocklington {n f b : Nat} (hf : f.Prime) (hn : 1 < n) (hb : 1 ≤ b) (hsq : n < f * f)
    (hpow : b ^ f % n = 1) (hgcd : Nat.gcd (b - 1) n = 1) : n.Prime := by
  by_contra hnp
  have hp := Nat.minFac_prime hn.ne'
  have hdvd := Nat.minFac_dvd n
  have hle : n.minFac * n.minFac ≤ n := by
    have := Nat.minFac_sq_le_self (by omega) hnp
    rwa [pow_two] at this
  have : Fact n.minFac.Prime := ⟨hp⟩
  have hone : ((b : ZMod n.minFac)) ^ f = 1 := by
    have h : b ^ f ≡ 1 [MOD n] := by
      unfold Nat.ModEq; rw [hpow, Nat.mod_eq_of_lt hn]
    have := (ZMod.natCast_eq_natCast_iff _ _ _).2 (h.of_dvd hdvd)
    simpa using this
  have hne : (b : ZMod n.minFac) ≠ 1 := by
    intro h
    have h1 : ((b - 1 : Nat) : ZMod n.minFac) = 0 := by rw [Nat.cast_sub hb, h]; simp
    have h2 := (ZMod.natCast_eq_zero_iff _ _).1 h1
    have := Nat.dvd_gcd h2 hdvd
    rw [hgcd] at this
    exact hp.one_lt.ne' (Nat.dvd_one.1 this)
  have : Fact f.Prime := ⟨hf⟩
  have hord := orderOf_eq_prime hone hne
  have hb0 : (b : ZMod n.minFac) ≠ 0 := by
    intro h
    rw [h, zero_pow hf.ne_zero] at hone
    exact zero_ne_one hone
  have := ZMod.orderOf_dvd_card_sub_one hb0
  rw [hord] at this
  have hlt := Nat.le_of_dvd (by have := hp.two_le; omega) this
  have hfm : f < n.minFac := by have := hp.two_le; omega
  exact absurd (Nat.mul_lt_mul'' hfm hfm) (by omega)

/-- A power in `ZMod n` through the square-and-multiply loop, which the kernel can run. -/
theorem natCast_pow_eq_modexp (a e n : Nat) : (a : ZMod n) ^ e = ((modexp a e n : Nat) : ZMod n) := by
  rw [modexp_eq, ZMod.natCast_mod, Nat.cast_pow]

/-- The 128-bit prime at the foot of the chain, by Lucas' test over the prime factors of its predecessor. -/
theorem prime_foot : Nat.Prime 255515944373312847190720520512484175977 := by
  have hmod : ∀ m : Nat, m < 255515944373312847190720520512484175977 → m ≠ 1 →
      ((m : Nat) : ZMod 255515944373312847190720520512484175977) ≠ 1 := by
    intro m hm h1 h
    have h2 : (m : ZMod 255515944373312847190720520512484175977) = ((1 : Nat) : ZMod _) := by simpa using h
    rw [ZMod.natCast_eq_natCast_iff, Nat.ModEq, Nat.mod_eq_of_lt hm, Nat.mod_eq_of_lt (by norm_num)] at h2
    exact h1 h2
  refine lucas_primality _ ((3 : Nat) : ZMod _) ?_ ?_
  · rw [natCast_pow_eq_modexp]
    have : modexp 3 (255515944373312847190720520512484175977 - 1) 255515944373312847190720520512484175977 = 1 := by
      decide +kernel
    rw [this, Nat.cast_one]
  · intro q hq hd
    have hfac : 255515944373312847190720520512484175977 - 1 =
        2 ^ 3 * (7 ^ 2 * (11 * (1627 * (2657 * (4423 * (41201 * (96557 * (7240687 * 107590001)))))))) := by norm_num
    rw [hfac] at hd
    have hmem : q ∈ [2, 7, 11, 1627, 2657, 4423, 41201, 96557, 7240687, 107590001] := by
      have e2 : Nat.Prime 2 := by norm_num
      have e7 : Nat.Prime 7 := by norm_num
      have f3 : Nat.Prime 11 := by norm_num
      have f4 : Nat.Prime 1627 := by norm_num
      have f5 : Nat.Prime 2657 := by norm_num
      have f6 : Nat.Prime 4423 := by norm_num
      have f7 : Nat.Prime 41201 := by norm_num
      have f8 : Nat.Prime 96557 := by norm_num
      have f9 : Nat.Prime 7240687 := by norm_num
      have f10 : Nat.Prime 107590001 := by norm_num
      rcases hq.dvd_mul.1 hd with h | hd
      · simp [(Nat.prime_dvd_prime_iff_eq hq e2).1 (hq.dvd_of_dvd_pow h)]
      rcases hq.dvd_mul.1 hd with h | hd
      · simp [(Nat.prime_dvd_prime_iff_eq hq e7).1 (hq.dvd_of_dvd_pow h)]
      rcases hq.dvd_mul.1 hd with h | hd
      · simp [(Nat.prime_dvd_prime_iff_eq hq f3).1 h]
      rcases hq.dvd_mul.1 hd with h | hd
      · simp [(Nat.prime_dvd_prime_iff_eq hq f4).1 h]
      rcases hq.dvd_mul.1 hd with h | hd
      · simp [(Nat.prime_dvd_prime_iff_eq hq f5).1 h]
      rcases hq.dvd_mul.1 hd with h | hd
      · simp [(Nat.prime_dvd_prime_iff_eq hq f6).1 h]
      rcases hq.dvd_mul.1 hd with h | hd
      · simp [(Nat.prime_dvd_prime_iff_eq hq f7).1 h]
      rcases hq.dvd_mul.1 hd with h | hd
      · simp [(Nat.prime_dvd_prime_iff_eq hq f8).1 h]
      rcases hq.dvd_mul.1 hd with h | h
      · simp [(Nat.prime_dvd_prime_iff_eq hq f9).1 h]
      · simp [(Nat.prime_dvd_prime_iff_eq hq f10).1 h]
    have hall : ∀ q ∈ [2, 7, 11, 1627, 2657, 4423, 41201, 96557, 7240687, 107590001],
        modexp 3 ((255515944373312847190720520512484175977 - 1) / q) 255515944373312847190720520512484175977 ≠ 1 := by
      decide +kernel
    rw [natCast_pow_eq_modexp]
    refine hmod _ ?_ (hall q hmem)
    rw [modexp_eq]
    exact Nat.mod_lt _ (by norm_num)

/-- The 237-bit prime factor of `P - 1`. -/
theorem prime_middle : Nat.Prime 205115282021455665897114700593932402728804164701536103180137503955397371 := by
  refine prime_of_pocklington (f := 255515944373312847190720520512484175977)
    (b := modexp 2 802749442992798076634733441528810
      205115282021455665897114700593932402728804164701536103180137503955397371)
    prime_foot (by norm_num) (by decide +kernel) (by norm_num) ?_ (by decide +kernel)
  rw [← modexp_eq]
  decide +kernel

/-- `P` is a prime (R8). -/
theorem P_prime : Nat.Prime Curve.P := by
  refine prime_of_pocklington (f := 205115282021455665897114700593932402728804164701536103180137503955397371)
    (b := modexp 2 564522 Curve.P) prime_middle (by decide +kernel) (by decide +kernel) (by decide +kernel) ?_
    (by decide +kernel)
  rw [← modexp_eq]
  decide +kernel

theorem P_pos : 0 < Curve.P := P_prime.pos

/-- A non-zero residue modulo `P` has an inverse, so `inv` does not fault on it (R100 (d)). -/
theorem inv_P {k : Nat} (h : k % Curve.P ≠ 0) :
    ∃ r, inv k Curve.P = .ok r ∧ r < Curve.P ∧ k * r % Curve.P = 1 := by
  rcases inv_cases k Curve.P P_pos with ⟨h0, -⟩ | ⟨-, hg, -⟩ | ⟨-, -, r, he, hr, hk⟩
  · exact absurd h0 h
  · refine absurd (Nat.Coprime.symm ?_) hg
    refine (Nat.Prime.coprime_iff_not_dvd P_prime).2 fun hd => h ?_
    have := Nat.eq_zero_of_dvd_of_lt hd (Nat.mod_lt _ P_pos)
    exact this
  · exact ⟨r, he, hr, by rw [hk]; exact Nat.mod_eq_of_lt P_prime.one_lt⟩

/-! ## The operand check of R90 -/

/-- The model's test of membership is the predicate that claims use. -/
theorem isMember_iff (q : Point) : q.isMember = true ↔ q.Member := by
  simp [Point.isMember, Point.Member, Point.Equation, onCurve, Curve.A, Curve.B, and_assoc]

theorem outOfRange_iff (q : Point) : q.outOfRange = true ↔ q.RangeBad := by
  simp [Point.outOfRange]

theorem offCurve_iff (q : Point) : q.offCurve = true ↔ q.EquationBad := by
  simp [Point.offCurve, onCurve, Curve.A, Curve.B]

/-- A member in R100's sense passes both steps of the check. -/
theorem checkPoints_ok {qs : List Point} (h : ∀ q ∈ qs, q.isMember = true) : checkPoints qs = .ok () := by
  have h1 : qs.any Point.outOfRange = false := by
    rw [List.any_eq_false]
    intro q hq
    have := h q hq
    simp only [Point.isMember, Point.outOfRange, Bool.or_eq_true, Bool.and_eq_true, decide_eq_true_eq] at this ⊢
    rcases this with hi | ⟨⟨hx, hy⟩, -⟩
    · simp [hi]
    · simp; omega
  have h2 : qs.any Point.offCurve = false := by
    rw [List.any_eq_false]
    intro q hq
    have := h q hq
    simp only [Point.isMember, Point.offCurve, Bool.or_eq_true, Bool.and_eq_true, decide_eq_true_eq] at this ⊢
    rcases this with hi | ⟨-, hc⟩
    · simp [hi]
    · simp [hc]
  simp [checkPoints, h1, h2]

/-- The three outcomes of the check (R90): every range test before any curve test. -/
theorem checkPoints_cases (qs : List Point) :
    (qs.any Point.outOfRange = true ∧ checkPoints qs = .error .operandRange) ∨
    (qs.any Point.outOfRange = false ∧ qs.any Point.offCurve = true ∧ checkPoints qs = .error .invalidPoint) ∨
    ((∀ q ∈ qs, q.isMember = true) ∧ checkPoints qs = .ok ()) := by
  by_cases h1 : qs.any Point.outOfRange
  · exact .inl ⟨h1, by simp [checkPoints, h1]⟩
  by_cases h2 : qs.any Point.offCurve
  · exact .inr (.inl ⟨by simpa using h1, h2, by simp [checkPoints, h1, h2]⟩)
  refine .inr (.inr ⟨fun q hq => ?_, by simp [checkPoints, h1, h2]⟩)
  have a := List.any_eq_false.1 (by simpa using h1) q hq
  have b := List.any_eq_false.1 (by simpa using h2) q hq
  simp only [Point.outOfRange, Point.offCurve, Point.isMember] at a b ⊢
  cases hi : q.inf <;> simp_all

end Sys2Proof.Machine
end

