-- ==== Sys2Proof/Laws/Ops.lean ====
section
/-! SUPPORT. What the shared ends of a command can do, said once (`finish`, `finishB`, `finishP`, `finishT`, `succeed`),
and the one inversion lemma of exec: every command ends as `Ends` says. -/

-- One theorem after the other: a thread for each would exceed the memory the check allows.
set_option Elab.async false

namespace Sys2Proof.Machine

variable {s t : State}

/-! ## The ends of a command -/

theorem keepsInterface_takeFault (s : State) (c : FaultCode) : Faulted s (s.takeFault c) c :=
  { cfg := rfl, cmdreg := rfl, drop := rfl, accv := rfl, ieDone := rfl, ieErr := rfl, rdata := rfl, bus := rfl
    busy := rfl, done := rfl, err := rfl, errcode := rfl, errinfo := rfl
    b := fun _ => rfl, p := fun _ => rfl, tflag := rfl }

theorem wroteNothing_complete (s : State) : WroteNothing s s.complete :=
  { cfg := rfl, cmdreg := rfl, drop := rfl, accv := rfl, ieDone := rfl, ieErr := rfl, rdata := rfl, bus := rfl
    busy := rfl, done := rfl, err := rfl, errcode := rfl, errinfo := rfl
    b := fun _ => rfl, p := fun _ => rfl, tflag := rfl }

theorem wroteB_complete (s : State) (bd : BReg) (v : Nat) : WroteB s (s.writeB bd v).complete bd v :=
  { cfg := rfl, cmdreg := rfl, drop := rfl, accv := rfl, ieDone := rfl, ieErr := rfl, rdata := rfl, bus := rfl
    busy := rfl, done := rfl, err := rfl, errcode := rfl, errinfo := rfl
    value := by simp
    b := fun r h => by simp [Ne.symm h]
    p := fun _ => rfl, tflag := rfl }

theorem wroteP_complete (s : State) (pd : PReg) (q : Point) : WroteP s (s.writeP pd q).complete pd q :=
  { cfg := rfl, cmdreg := rfl, drop := rfl, accv := rfl, ieDone := rfl, ieErr := rfl, rdata := rfl, bus := rfl
    busy := rfl, done := rfl, err := rfl, errcode := rfl, errinfo := rfl
    value := by simp
    b := fun _ => rfl
    p := fun r h => by simp [Ne.symm h]
    tflag := rfl }

theorem wroteT_complete (s : State) (v : Bool) : WroteT s (s.writeT v).complete v :=
  { cfg := rfl, cmdreg := rfl, drop := rfl, accv := rfl, ieDone := rfl, ieErr := rfl, rdata := rfl, bus := rfl
    busy := rfl, done := rfl, err := rfl, errcode := rfl, errinfo := rfl
    b := fun _ => rfl, p := fun _ => rfl, value := rfl }

/-- A result in `bd`: the next state, and what it holds. -/
theorem finishB_ok (s : State) (bd : BReg) (v : Nat) :
    ∃ t, finishB s bd (.ok v) = .next t ∧ WroteB s t bd v := ⟨_, rfl, wroteB_complete s bd v⟩

theorem finishB_error (s : State) (bd : BReg) (c : FaultCode) :
    ∃ t, finishB s bd (.error c) = .next t ∧ Faulted s t c := ⟨_, rfl, keepsInterface_takeFault s c⟩

theorem finishP_ok (s : State) (pd : PReg) (q : Point) :
    ∃ t, finishP s pd (.ok q) = .next t ∧ WroteP s t pd q := ⟨_, rfl, wroteP_complete s pd q⟩

theorem finishP_error (s : State) (pd : PReg) (c : FaultCode) :
    ∃ t, finishP s pd (.error c) = .next t ∧ Faulted s t c := ⟨_, rfl, keepsInterface_takeFault s c⟩

theorem finishT_ok (s : State) (v : Bool) :
    ∃ t, finishT s (.ok v) = .next t ∧ WroteT s t v := ⟨_, rfl, wroteT_complete s v⟩

theorem finishT_error (s : State) (c : FaultCode) :
    ∃ t, finishT s (.error c) = .next t ∧ Faulted s t c := ⟨_, rfl, keepsInterface_takeFault s c⟩

/-- Everything `finishB` can do. -/
theorem finishB_cases {bd : BReg} {r : Except FaultCode Nat} (h : finishB s bd r = .next t) :
    (∃ v, r = .ok v ∧ WroteB s t bd v) ∨ (∃ c, r = .error c ∧ Faulted s t c) := by
  cases r with
  | ok v => cases h; exact .inl ⟨v, rfl, wroteB_complete s bd v⟩
  | error c => cases h; exact .inr ⟨c, rfl, keepsInterface_takeFault s c⟩

/-- Everything `finishP` can do. -/
theorem finishP_cases {pd : PReg} {r : Except FaultCode Point} (h : finishP s pd r = .next t) :
    (∃ q, r = .ok q ∧ WroteP s t pd q) ∨ (∃ c, r = .error c ∧ Faulted s t c) := by
  cases r with
  | ok q => cases h; exact .inl ⟨q, rfl, wroteP_complete s pd q⟩
  | error c => cases h; exact .inr ⟨c, rfl, keepsInterface_takeFault s c⟩

/-- Everything `finishT` can do. -/
theorem finishT_cases {r : Except FaultCode Bool} (h : finishT s r = .next t) :
    (∃ v, r = .ok v ∧ WroteT s t v) ∨ (∃ c, r = .error c ∧ Faulted s t c) := by
  cases r with
  | ok v => cases h; exact .inl ⟨v, rfl, wroteT_complete s v⟩
  | error c => cases h; exact .inr ⟨c, rfl, keepsInterface_takeFault s c⟩

/-- `finish` always answers a next state. -/
theorem finish_next (s : State) (r : Except FaultCode State) : ∃ t, finish s r = .next t := by
  cases r <;> exact ⟨_, rfl⟩

end Sys2Proof.Machine
end

