-- ==== Sys2Proof/Laws/Exec.lean ====
section
/-! SUPPORT. The inversion lemma of exec: every command answers a next state and ends as `Ends` says (spec/20_memory.md
R50, spec/40_control.md R85, spec/60_exceptions.md R172); and the same for the completion step and the engine's turn. -/

-- One theorem after the other: a thread for each would exceed the memory the check allows.
set_option Elab.async false

namespace Sys2Proof.Machine

variable {s t : State}

theorem ends_finishB {i : Instr} {bd : BReg} {r : Except FaultCode Nat} (hd : destB i = some bd)
    (h : finishB s bd r = .next t) : Ends i s t := by
  rcases finishB_cases h with ⟨v, -, hw⟩ | ⟨c, -, hf⟩
  · exact .inr (.inl ⟨bd, v, hd, hw⟩)
  · exact .inr (.inr (.inr (.inr ⟨c, hf⟩)))

theorem ends_finishP {i : Instr} {pd : PReg} {r : Except FaultCode Point} (hd : destP i = some pd)
    (h : finishP s pd r = .next t) : Ends i s t := by
  rcases finishP_cases h with ⟨q, -, hw⟩ | ⟨c, -, hf⟩
  · exact .inr (.inr (.inl ⟨pd, q, hd, hw⟩))
  · exact .inr (.inr (.inr (.inr ⟨c, hf⟩)))

theorem ends_finishT {i : Instr} {r : Except FaultCode Bool} (hd : writesT i = true)
    (h : finishT s r = .next t) : Ends i s t := by
  rcases finishT_cases h with ⟨v, -, hw⟩ | ⟨c, -, hf⟩
  · exact .inr (.inr (.inr (.inl ⟨v, hd, hw⟩)))
  · exact .inr (.inr (.inr (.inr ⟨c, hf⟩)))

/-- Every command ends as its row of R62 allows. -/
theorem exec_ends (i : Instr) (h : exec i s = .next t) : Ends i s t := by
  cases i with
  | nop => cases h; exact .inl ⟨rfl, rfl, rfl, wroteNothing_complete s⟩
  | mov bd ba => exact ends_finishB rfl (r := .ok (s.readB ba)) h
  | pmov pd pa => exact ends_finishP rfl (r := .ok (s.readP pa)) h
  | ldc bd sel => exact ends_finishB rfl h
  | pldg pd => exact ends_finishP rfl (r := .ok Point.generator) h
  | padd pd pa pb => exact ends_finishP rfl h
  | pdbl pd pa => exact ends_finishP rfl h
  | pneg pd pa => exact ends_finishP rfl h
  | pmul pd pa bk => exact ends_finishP rfl h
  | pchk pa => exact ends_finishT rfl (r := .ok (s.readP pa).isMember) h
  | mred bd ba bm => exact ends_finishB rfl h
  | mmul bd ba bb bm => exact ends_finishB rfl h
  | minv bd bk bm => exact ends_finishB rfl h
  | mexp bd bb be bm => exact ends_finishB rfl h
  | qrt ba bp => exact ends_finishT rfl h
  | bsqrt bd ba bp => exact ends_finishB rfl h
  | rcrt bd bh bp bq => exact ends_finishB rfl h
  | rvfy bs bh bn => exact ends_finishT rfl h

/-- Every command answers a next state: a command's fault is one too (R170). -/
theorem exec_next (i : Instr) (s : State) : ∃ t, exec i s = .next t := by
  cases i <;> first | exact ⟨_, rfl⟩ | exact finish_next _ _

/-- Everything the engine's turn can do (R50): nothing while BUSY = 0; else the decoded command's end, or
IllegalCommand. -/
theorem engineTurn_cases (s : State) : ∃ t, engineTurn s = .next t ∧
    ((s.busy = false ∧ t = s) ∨
     (s.busy = true ∧ ∃ i, decode s.cmdreg = .ok i ∧ exec i s = .next t ∧ Ends i s t) ∨
     (s.busy = true ∧ (∃ e, decode s.cmdreg = .error e) ∧ Faulted s t .illegalCommand)) := by
  unfold engineTurn completeCommand
  by_cases hb : s.busy
  · rw [if_pos hb]
    cases hd : decode s.cmdreg with
    | ok i =>
      obtain ⟨t, ht⟩ := exec_next i s
      exact ⟨t, ht, .inr (.inl ⟨hb, i, rfl, ht, exec_ends i ht⟩)⟩
    | error e => exact ⟨_, rfl, .inr (.inr ⟨hb, ⟨e, rfl⟩, keepsInterface_takeFault s _⟩)⟩
  · rw [if_neg hb]
    exact ⟨s, rfl, .inl ⟨by simpa using hb, rfl⟩⟩

/-- Everything one step can do: a transaction, reset, or the engine's turn. -/
theorem step_cases (s : State) : ∃ t, step s = .next t ∧
    ((s.bus = [] ∧ engineTurn s = .next t) ∨
     (∃ rest, s.bus = .pause :: rest ∧ engineTurn { s with bus := rest } = .next t) ∨
     (∃ a rest, s.bus = .read a :: rest ∧ t = State.busRead { s with bus := rest } a) ∨
     (∃ a v rest, s.bus = .write a v :: rest ∧ t = State.busWrite { s with bus := rest } a v) ∨
     (∃ rest, s.bus = .reset :: rest ∧ t = State.initial s.cfg rest)) := by
  unfold step
  cases hb : s.bus with
  | nil =>
    obtain ⟨t, ht, -⟩ := engineTurn_cases s
    exact ⟨t, ht, .inl ⟨rfl, ht⟩⟩
  | cons act rest =>
    cases act with
    | read a => exact ⟨_, rfl, .inr (.inr (.inl ⟨a, rest, rfl, rfl⟩))⟩
    | write a v => exact ⟨_, rfl, .inr (.inr (.inr (.inl ⟨a, v, rest, rfl, rfl⟩)))⟩
    | reset => exact ⟨_, rfl, .inr (.inr (.inr (.inr ⟨rest, rfl, rfl⟩)))⟩
    | pause =>
      obtain ⟨t, ht, -⟩ := engineTurn_cases { s with bus := rest }
      exact ⟨t, ht, .inr (.inl ⟨rest, rfl, ht⟩)⟩

/-- The step of a read (R41). -/
theorem step_read {a : WordAddr} {rest : List HostAction} (h : s.bus = .read a :: rest) :
    step s = .next (State.busRead { s with bus := rest } a) := by
  simp [step, h, hostTurn]

/-- The step of a write (R42). -/
theorem step_write {a : WordAddr} {v : Word} {rest : List HostAction} (h : s.bus = .write a v :: rest) :
    step s = .next (State.busWrite { s with bus := rest } a v) := by
  simp [step, h, hostTurn]

/-- A command leaves the host's actions alone, and BUSY is 0 after it. -/
theorem Ends.bus_busy {i : Instr} (h : Ends i s t) : t.bus = s.bus ∧ t.busy = false := by
  rcases h with ⟨-, -, -, w⟩ | ⟨_, _, _, w⟩ | ⟨_, _, _, w⟩ | ⟨_, _, w⟩ | ⟨_, w⟩ <;> exact ⟨w.bus, w.busy⟩

end Sys2Proof.Machine
end

