-- ==== Sys2Proof/Laws/Map.lean ====
section
/-! SUPPORT. The register map of spec/20_memory.md R43, read both ways: which word lies at each register's offset, and at
which offset a word lies. -/

-- One theorem after the other: a thread for each would exceed the memory the check allows.
set_option Elab.async false

namespace Sys2Proof.Machine

/-! ## Word addresses -/

theorem offset_wordAddr {off : Nat} (h4 : off % 4 = 0) (h : off < 0x4000) : (wordAddr off).offset = off := by
  simp only [wordAddr, WordAddr.offset, BitVec.toNat_ofNat]
  omega

theorem wordAddr_offset (a : WordAddr) : wordAddr a.offset = a := by
  apply BitVec.eq_of_toNat_eq
  have := a.isLt
  simp only [wordAddr, WordAddr.offset, BitVec.toNat_ofNat]
  omega

theorem offset_mod (a : WordAddr) : a.offset % 4 = 0 := by
  simp only [WordAddr.offset]; omega

theorem offset_lt (a : WordAddr) : a.offset < 0x4000 := by
  have := a.isLt
  simp only [WordAddr.offset]; omega

theorem offset_injective {a a' : WordAddr} (h : a.offset = a'.offset) : a = a' := by
  rw [← wordAddr_offset a, ← wordAddr_offset a', h]

/-! ## From a register to its offset -/

variable {W : Nat}

/-- A legal `W` in limbs. -/
theorem legal_limbs {c : Config} (h : c.Legal) : c.W / 8 = 4 * (c.W / 32) ∧ c.W = 32 * (c.W / 32) ∧ 16 ≤ c.W / 32 ∧
    c.W / 32 ≤ 256 := by
  obtain ⟨h1, h2, h3⟩ := h
  omega

theorem bOffset_lt (hW : W % 32 = 0) (i : BReg) {j : Nat} (hj : j < W / 32) :
    0x1000 + W / 8 * i.val ≤ bOffset W i j ∧ bOffset W i j < 0x1000 + W / 8 * (i.val + 1) ∧ bOffset W i j % 4 = 0 := by
  have h8 : W / 8 = 4 * (W / 32) := by omega
  unfold bOffset
  rw [h8, Nat.mul_add, Nat.mul_assoc]
  omega

theorem bOffset_top {c : Config} (h : c.Legal) (i : BReg) {j : Nat} (hj : j < c.W / 32) : bOffset c.W i j < 0x1000 + c.W := by
  have h1 := bOffset_lt h.1 i hj
  have h2 : c.W / 8 * (i.val + 1) ≤ c.W / 8 * 8 := Nat.mul_le_mul_left _ i.isLt
  have := legal_limbs h
  omega

/-- Limb `j` of `b<i>` lies at `bOffset` (R43). -/
theorem mapWord_bOffset (hW : W % 32 = 0) (i : BReg) {j : Nat} (hj : j < W / 32) : mapWord W (bOffset W i j) = .b i j := by
  have h8 : W / 8 = 4 * (W / 32) := by omega
  have hsub : bOffset W i j - 0x1000 = W / 8 * i.val + 4 * j := by unfold bOffset; omega
  have hlt : 4 * j < W / 8 := by omega
  have hdiv : (bOffset W i j - 0x1000) / (W / 8) = i.val := by
    rw [hsub, Nat.mul_add_div (by omega), Nat.div_eq_of_lt hlt, Nat.add_zero]
  have hmod : (bOffset W i j - 0x1000) % (W / 8) / 4 = j := by
    rw [hsub, Nat.mul_add_mod, Nat.mod_eq_of_lt hlt]; omega
  have hge := (bOffset_lt hW i hj).1
  have hge' : 0x1000 ≤ bOffset W i j := by omega
  unfold mapWord dataWord dataRegion
  rw [if_pos (by simp; omega), if_neg (by omega), if_pos hge', dif_pos (by rw [hdiv]; exact i.isLt), hmod]
  simp [hdiv]

theorem mapWord_point (W : Nat) (i : PReg) {r : Nat} (hr : r < 0x80) :
    mapWord W (0x0200 + 0x80 * i.val + r) = pointWord i r := by
  have h1 : (0x0200 + 0x80 * i.val + r - 0x0200) / 0x80 = i.val := by omega
  have h2 : (0x0200 + 0x80 * i.val + r - 0x0200) % 0x80 = r := by omega
  have := i.isLt
  unfold mapWord dataWord dataRegion
  rw [if_pos (by simp; omega), if_pos (by omega), dif_pos (by omega), h2]
  simp [h1]

theorem mapWord_pxOffset (W : Nat) (i : PReg) {j : Nat} (hj : j < 8) : mapWord W (pxOffset i j) = .px i j := by
  unfold pxOffset
  rw [mapWord_point W i (by omega)]; unfold pointWord
  rw [if_pos (by omega)]; congr 1; omega

theorem mapWord_pyOffset (W : Nat) (i : PReg) {j : Nat} (hj : j < 8) : mapWord W (pyOffset i j) = .py i j := by
  have : pyOffset i j = 0x0200 + 0x80 * i.val + (0x20 + 4 * j) := by unfold pyOffset; omega
  rw [this, mapWord_point W i (by omega)]; unfold pointWord
  rw [if_neg (by omega), if_pos (by omega)]; congr 1; omega

theorem mapWord_pinfOffset (W : Nat) (i : PReg) : mapWord W (pinfOffset i) = .pinf i := by
  have : pinfOffset i = 0x0200 + 0x80 * i.val + 0x40 := by unfold pinfOffset; omega
  rw [this, mapWord_point W i (by omega)]; rfl

/-- Limb `j` of the curve constant numbered `k` (R43). -/
theorem mapWord_curve (W : Nat) {k j : Nat} (hk : k < 6) (hj : j < 8) :
    mapWord W (0x0100 + 0x20 * k + 4 * j) = .curve k j := by
  have hm : mapWord W (0x0100 + 0x20 * k + 4 * j) = controlWord (0x0100 + 0x20 * k + 4 * j) := by
    unfold mapWord dataRegion; rw [if_neg (by simp; omega)]
  rw [hm]; unfold controlWord; rw [if_neg (by omega), if_pos (by omega)]
  congr 1 <;> omega

/-! ## From an offset to its word -/

theorem pointWord_cases (i : PReg) {r : Nat} :
    (pointWord i r = .px i (r / 4) ∧ r < 0x20) ∨
    (pointWord i r = .py i ((r - 0x20) / 4) ∧ 0x20 ≤ r ∧ r < 0x40) ∨
    (pointWord i r = .pinf i ∧ 0x40 ≤ r ∧ r < 0x44) ∨ (pointWord i r = .reserved ∧ 0x44 ≤ r) := by
  unfold pointWord
  by_cases h1 : r < 0x20
  · rw [if_pos h1]; exact .inl ⟨rfl, h1⟩
  by_cases h2 : r < 0x40
  · rw [if_neg h1, if_pos h2]; exact .inr (.inl ⟨rfl, by omega, h2⟩)
  by_cases h3 : r < 0x44
  · rw [if_neg h1, if_neg h2, if_pos h3]; exact .inr (.inr (.inl ⟨rfl, by omega, h3⟩))
  · rw [if_neg h1, if_neg h2, if_neg h3]; exact .inr (.inr (.inr ⟨rfl, by omega⟩))

/-- A data-region word that is not reserved lies at the offset of its limb or of its INF word (R43). -/
theorem dataWord_cases {W off : Nat} (hW : W % 32 = 0) (hpos : 0 < W) (h4 : off % 4 = 0) (hd : 0x0200 ≤ off) :
    (∃ i j, mapWord W off = .px i j ∧ off = pxOffset i j ∧ j < 8) ∨
    (∃ i j, mapWord W off = .py i j ∧ off = pyOffset i j ∧ j < 8) ∨
    (∃ i, mapWord W off = .pinf i ∧ off = pinfOffset i) ∨
    (∃ i j, mapWord W off = .b i j ∧ off = bOffset W i j ∧ j < W / 32) ∨ mapWord W off = .reserved := by
  have hm : mapWord W off = dataWord W off := by
    unfold mapWord dataRegion; rw [if_pos (by simpa using hd)]
  by_cases hp : off < 0x0400
  · have hlt : (off - 0x0200) / 0x80 < 4 := by omega
    have hw : mapWord W off = pointWord ⟨(off - 0x0200) / 0x80, hlt⟩ ((off - 0x0200) % 0x80) := by
      rw [hm]; unfold dataWord; rw [if_pos hp, dif_pos hlt]
    rcases pointWord_cases ⟨(off - 0x0200) / 0x80, hlt⟩ (r := (off - 0x0200) % 0x80) with h | h | h | h
    · exact .inl ⟨_, _, hw.trans h.1, by unfold pxOffset; dsimp only; omega, by omega⟩
    · exact .inr (.inl ⟨_, _, hw.trans h.1, by unfold pyOffset; dsimp only; omega, by omega⟩)
    · exact .inr (.inr (.inl ⟨_, hw.trans h.1, by unfold pinfOffset; dsimp only; omega⟩))
    · exact .inr (.inr (.inr (.inr (hw.trans h.1))))
  · by_cases hb : 0x1000 ≤ off ∧ (off - 0x1000) / (W / 8) < 8
    · have h8 : W / 8 = 4 * (W / 32) := by omega
      have hdm := Nat.div_add_mod (off - 0x1000) (W / 8)
      have hml := Nat.mod_lt (off - 0x1000) (show 0 < W / 8 by omega)
      have hm4 : (off - 0x1000) % (W / 8) % 4 = 0 := by rw [h8, Nat.mod_mul_right_mod]; omega
      refine .inr (.inr (.inr (.inl ⟨⟨_, hb.2⟩, (off - 0x1000) % (W / 8) / 4, ?_, ?_, by omega⟩)))
      · rw [hm]; unfold dataWord; rw [if_neg hp, if_pos hb.1, dif_pos hb.2]
      · unfold bOffset; simp only []; omega
    · refine .inr (.inr (.inr (.inr ?_)))
      rw [hm]; unfold dataWord; rw [if_neg hp]
      by_cases h1 : 0x1000 ≤ off
      · rw [if_pos h1, dif_neg (fun h => hb ⟨h1, h⟩)]
      · rw [if_neg h1]

/-- A control-region offset holds one of the eight named words, a curve limb, or is reserved (R43). -/
theorem controlWord_cases {W off : Nat} (h4 : off % 4 = 0) (hd : off < 0x0200) :
    (off = 0x0000 ∧ mapWord W off = .id) ∨ (off = 0x0004 ∧ mapWord W off = .cmd) ∨
    (off = 0x0008 ∧ mapWord W off = .status) ∨ (off = 0x000C ∧ mapWord W off = .ctrl) ∨
    (off = 0x0010 ∧ mapWord W off = .errcode) ∨ (off = 0x0014 ∧ mapWord W off = .errinfo) ∨
    (off = 0x0018 ∧ mapWord W off = .paramW) ∨ (off = 0x001C ∧ mapWord W off = .paramCfg) ∨
    (∃ k j, mapWord W off = .curve k j ∧ off = 0x0100 + 0x20 * k + 4 * j ∧ k < 6 ∧ j < 8) ∨
    mapWord W off = .reserved := by
  have hm : mapWord W off = controlWord off := by
    unfold mapWord dataRegion; rw [if_neg (by simpa using hd)]
  by_cases h1 : off < 0x0020
  · have : off = 0 ∨ off = 4 ∨ off = 8 ∨ off = 12 ∨ off = 16 ∨ off = 20 ∨ off = 24 ∨ off = 28 := by omega
    rcases this with h | h | h | h | h | h | h | h <;> subst h <;> simp [hm, controlWord]
  · by_cases h2 : 0x0100 ≤ off ∧ off < 0x01C0
    · have hc : mapWord W off = .curve ((off - 0x0100) / 0x20) ((off - 0x0100) % 0x20 / 4) := by
        rw [hm]; unfold controlWord; rw [if_neg h1, if_pos h2]
      have := h2.1
      have := h2.2
      iterate 8 apply Or.inr
      exact .inl ⟨_, _, hc, by omega, by omega, by omega⟩
    · have hc : mapWord W off = .reserved := by
        rw [hm]; unfold controlWord; rw [if_neg h1, if_neg h2]
      iterate 9 apply Or.inr
      exact hc

/-- The reserved words of the map (R43, R47). -/
theorem mapWord_reserved {W off : Nat} (hW : W % 32 = 0) (hpos : 0 < W)
    (h : (0x0020 ≤ off ∧ off < 0x0100) ∨ (0x01C0 ≤ off ∧ off < 0x0200) ∨
      (∃ i : PReg, 0x0244 + 0x80 * i.val ≤ off ∧ off < 0x0280 + 0x80 * i.val) ∨
      (0x0400 ≤ off ∧ off < 0x1000) ∨ 0x1000 + W ≤ off) : mapWord W off = .reserved := by
  unfold mapWord dataRegion
  rcases h with h | h | ⟨i, h⟩ | h | h
  · rw [if_neg (by simp; omega)]; unfold controlWord; rw [if_neg (by omega), if_neg (by omega)]
  · rw [if_neg (by simp; omega)]; unfold controlWord; rw [if_neg (by omega), if_neg (by omega)]
  · have := i.isLt
    rw [if_pos (by simp; omega)]; unfold dataWord; rw [if_pos (by omega), dif_pos (by omega)]
    unfold pointWord; rw [if_neg (by omega), if_neg (by omega), if_neg (by omega)]
  · rw [if_pos (by simp; omega)]; unfold dataWord; rw [if_neg (by omega), if_neg (by omega)]
  · rw [if_pos (by simp; omega)]; unfold dataWord; rw [if_neg (by omega), if_pos (by omega), dif_neg]
    rw [Nat.not_lt, Nat.le_div_iff_mul_le (by omega)]
    omega

/-- No two addresses show the same word of a data register (R43). -/
theorem mapWord_injective {c : Config} (hL : c.Legal) {a a' : WordAddr} (hne : a' ≠ a)
    (heq : mapWord c.W a'.offset = mapWord c.W a.offset) (hd : 0x0200 ≤ a.offset) :
    mapWord c.W a.offset = .reserved := by
  have h2 := hL.2.1
  have hd' : 0x0200 ≤ a'.offset ∨ mapWord c.W a.offset = .reserved := by
    by_contra hx
    push Not at hx
    rcases dataWord_cases hL.1 (by omega) (offset_mod a) hd with ⟨i, j, e, -⟩ | ⟨i, j, e, -⟩ | ⟨i, e, -⟩ | ⟨i, j, e, -⟩ | e <;>
      rcases controlWord_cases (W := c.W) (offset_mod a') (by omega) with
        k | k | k | k | k | k | k | k | ⟨_, _, k⟩ | k <;>
      first
        | exact hx.2 e
        | (have := k.2; rw [heq, e] at this; cases this)
        | (have := k.1; rw [heq, e] at this; cases this)
        | (rw [heq, e] at k; cases k)
  rcases hd' with hd' | hd'
  · rcases dataWord_cases hL.1 (by omega) (offset_mod a) hd with
        ⟨i, j, e, o, -⟩ | ⟨i, j, e, o, -⟩ | ⟨i, e, o⟩ | ⟨i, j, e, o, -⟩ | e <;>
      rcases dataWord_cases hL.1 (by omega) (offset_mod a') hd' with
        ⟨i', j', e', o', -⟩ | ⟨i', j', e', o', -⟩ | ⟨i', e', o'⟩ | ⟨i', j', e', o', -⟩ | e' <;>
      first
        | exact e
        | (rw [e, e'] at heq; cases heq; done)
        | (rw [e, e'] at heq; cases heq; exact absurd (offset_injective (o'.trans o.symm)) hne)
  · exact hd'

end Sys2Proof.Machine
end

