-- ==== Sys2Proof/Laws/PerInstr.lean ====
section
/-! SUPPORT. What holds of every command as syntax, one lemma per command: its word matches its row of the opcode map
(spec/30_encoding.md R63, R64). -/

-- One theorem after the other: a thread for each would exceed the memory the check allows.
set_option Elab.async false

namespace Sys2Proof.Laws

/-! ## Words field by field -/

/-- A mask laid out by the fields of R61 acts on each field alone. -/
theorem packWord_and (o o' : BitVec 8) (d a b c d' a' b' c' : BitVec 4) (i i' : BitVec 8) :
    packWord o d a b c i &&& packWord o' d' a' b' c' i' =
      packWord (o &&& o') (d &&& d') (a &&& a') (b &&& b') (c &&& c') (i &&& i') := by
  unfold packWord
  refine BitVec.and_append.trans (congrArg (· ++ (i &&& i')) ?_)
  rw [BitVec.and_append, BitVec.and_append, BitVec.and_append, BitVec.and_append]

/-- Bit 3 of a `B` field is 0 (R63). -/
theorem bField_and (r : BReg) : bField r &&& 8 = 0 := by
  revert r; decide

/-- Bits 3:2 of a `P` field are 0 (R63). -/
theorem pField_and (r : PReg) : pField r &&& 12 = 0 := by
  revert r; decide

namespace EncodeMatches

/-- The word of a legal command satisfies `(cmd and mask) = match` for the command's row of R64. -/
def Statement (i : Instr) : Prop := i.WellFormed → encode i &&& i.row.2 = i.row.1

theorem nop : Statement .nop := fun _ => by decide

theorem mov (bd ba : BReg) : Statement (.mov bd ba) := fun _ => by
  rw [encode, Instr.row, show (0xFF88FFFF : Word) = packWord 0xFF 8 8 15 15 0xFF by decide, packWord_and,
    bField_and, bField_and]
  decide

theorem pmov (pd pa : PReg) : Statement (.pmov pd pa) := fun _ => by
  rw [encode, Instr.row, show (0xFFCCFFFF : Word) = packWord 0xFF 12 12 15 15 0xFF by decide, packWord_and,
    pField_and, pField_and]
  decide

theorem ldc (bd : BReg) (sel : BitVec 8) : Statement (.ldc bd sel) := fun h => by
  have hs : sel &&& 0xF8 = 0 := by
    have h5 : sel.toNat ≤ 5 := by simpa [Instr.WellFormed, Instr.wellFormed] using h
    clear h; revert sel; decide
  rw [encode, Instr.row, show (0xFF8FFFF8 : Word) = packWord 0xFF 8 15 15 15 0xF8 by decide, packWord_and,
    bField_and, hs]
  decide

theorem pldg (pd : PReg) : Statement (.pldg pd) := fun _ => by
  rw [encode, Instr.row, show (0xFFCFFFFF : Word) = packWord 0xFF 12 15 15 15 0xFF by decide, packWord_and,
    pField_and]
  decide

theorem padd (pd pa pb : PReg) : Statement (.padd pd pa pb) := fun _ => by
  rw [encode, Instr.row, show (0xFFCCCFFF : Word) = packWord 0xFF 12 12 12 15 0xFF by decide, packWord_and,
    pField_and, pField_and, pField_and]
  decide

theorem pdbl (pd pa : PReg) : Statement (.pdbl pd pa) := fun _ => by
  rw [encode, Instr.row, show (0xFFCCFFFF : Word) = packWord 0xFF 12 12 15 15 0xFF by decide, packWord_and,
    pField_and, pField_and]
  decide

theorem pneg (pd pa : PReg) : Statement (.pneg pd pa) := fun _ => by
  rw [encode, Instr.row, show (0xFFCCFFFF : Word) = packWord 0xFF 12 12 15 15 0xFF by decide, packWord_and,
    pField_and, pField_and]
  decide

theorem pmul (pd pa : PReg) (bk : BReg) : Statement (.pmul pd pa bk) := fun _ => by
  rw [encode, Instr.row, show (0xFFCC8FFF : Word) = packWord 0xFF 12 12 8 15 0xFF by decide, packWord_and,
    pField_and, pField_and, bField_and]
  decide

theorem pchk (pa : PReg) : Statement (.pchk pa) := fun _ => by
  rw [encode, Instr.row, show (0xFFFCFFFF : Word) = packWord 0xFF 15 12 15 15 0xFF by decide, packWord_and,
    pField_and]
  decide

theorem mred (bd ba bm : BReg) : Statement (.mred bd ba bm) := fun _ => by
  rw [encode, Instr.row, show (0xFF888FFF : Word) = packWord 0xFF 8 8 8 15 0xFF by decide, packWord_and,
    bField_and, bField_and, bField_and]
  decide

theorem mmul (bd ba bb bm : BReg) : Statement (.mmul bd ba bb bm) := fun _ => by
  rw [encode, Instr.row, show (0xFF8888FF : Word) = packWord 0xFF 8 8 8 8 0xFF by decide, packWord_and,
    bField_and, bField_and, bField_and, bField_and]
  decide

theorem minv (bd bk bm : BReg) : Statement (.minv bd bk bm) := fun _ => by
  rw [encode, Instr.row, show (0xFF888FFF : Word) = packWord 0xFF 8 8 8 15 0xFF by decide, packWord_and,
    bField_and, bField_and, bField_and]
  decide

theorem mexp (bd bb be bm : BReg) : Statement (.mexp bd bb be bm) := fun _ => by
  rw [encode, Instr.row, show (0xFF8888FF : Word) = packWord 0xFF 8 8 8 8 0xFF by decide, packWord_and,
    bField_and, bField_and, bField_and, bField_and]
  decide

theorem qrt (ba bp : BReg) : Statement (.qrt ba bp) := fun _ => by
  rw [encode, Instr.row, show (0xFFF88FFF : Word) = packWord 0xFF 15 8 8 15 0xFF by decide, packWord_and,
    bField_and, bField_and]
  decide

theorem bsqrt (bd ba bp : BReg) : Statement (.bsqrt bd ba bp) := fun _ => by
  rw [encode, Instr.row, show (0xFF888FFF : Word) = packWord 0xFF 8 8 8 15 0xFF by decide, packWord_and,
    bField_and, bField_and, bField_and]
  decide

theorem rcrt (bd bh bp bq : BReg) : Statement (.rcrt bd bh bp bq) := fun _ => by
  rw [encode, Instr.row, show (0xFF8888FF : Word) = packWord 0xFF 8 8 8 8 0xFF by decide, packWord_and,
    bField_and, bField_and, bField_and, bField_and]
  decide

theorem rvfy (bs bh bn : BReg) : Statement (.rvfy bs bh bn) := fun _ => by
  rw [encode, Instr.row, show (0xFFF888FF : Word) = packWord 0xFF 15 8 8 8 0xFF by decide, packWord_and,
    bField_and, bField_and, bField_and]
  decide

end EncodeMatches

end Sys2Proof.Laws
end

