-- ==== Sys2Proof/Tests/Slice0.lean ====
section
/-! SUPPORT. Tests with expected results from spec/95_test_vectors.md (the vector is named in each docstring), the words
of spec/30_encoding.md, the smoke test of WellFormed, and for every obligation with hypotheses a witness that meets them. -/

-- One theorem after the other: a thread for each would exceed the memory the check allows.
set_option Elab.async false

namespace Sys2Proof.Tests

open Sys2Proof.Machine

/-! ## Small states -/

/-- The reset state with some registers loaded. -/
def start (bs : List (BReg × Nat)) (ps : List (PReg × Point)) : State :=
  ps.foldl (fun s x => s.writeP x.1 x.2) (bs.foldl (fun s x => s.writeB x.1 x.2) State.reset)

/-- The state a step answers; the reset state if it answers none. -/
def after (o : Out) : State :=
  match o with
  | .next t => t
  | .fault _ => State.reset
  | .refused _ => State.reset

def isNext (o : Out) : Bool :=
  match o with
  | .next _ => true
  | .fault _ => false
  | .refused _ => false

theorem next_after {o : Out} (h : isNext o = true) : o = .next (after o) := by
  cases o with
  | next t => rfl
  | fault r => cases h
  | refused r => cases h

/-- STATUS, ERRCODE and ERRINFO. -/
def report (s : State) : Word × Word × Word := (s.statusWord, s.errcodeWord, s.errinfo)

def finite (x y : Nat) : Point := Point.finite x y
def pG : Point := finite Curve.Gx Curve.Gy
/-- 2G of spec/95_test_vectors.md. -/
def p2G : Point := finite 0xC6047F9441ED7D6D3045406E95C07CD85C778E4B8CEF3CA7ABAC09B95C709EE5
  0x1AE168FEA63DC339A3C58419466CEAEEF7F632653266D0E1236431A950CFE52A
/-- 3G of spec/95_test_vectors.md. -/
def p3G : Point := finite 0xF9308A019258C31049344F85F89D5229B531C845836F99B08601F113BCE036F9
  0x388F7B0F632DE8140FE337E62A37F3566500A99934C2231B6CB9FD7584B8E672
/-- −G of spec/95_test_vectors.md. -/
def pMinusG : Point := finite Curve.Gx 0xB7C52588D95C3B9AA25B0403F1EEF75702E84BB7597AABE663B82F6F04EF2777
/-- An Infinity with non-zero coordinates (K5). -/
def pRawInf : Point := { inf := true, x := 1, y := 1 }

/-! ## WellFormed: the one check -/

theorem test_wellFormed_refuses_ldc_selector_6 : ¬ (Instr.ldc 0 6).WellFormed := by decide
theorem test_wellFormed_takes_ldc_selector_5 : (Instr.ldc 7 5).WellFormed := by decide

/-! ## Decoding: one word of each command (spec/95_test_vectors.md section 2.2), and illegal words -/

theorem test_decode_nop : decode 0x00000000 = .ok .nop := by decide
theorem test_decode_mov : decode 0x01300000 = .ok (.mov 3 0) := by decide
theorem test_decode_pmov : decode 0x02210000 = .ok (.pmov 2 1) := by decide
theorem test_decode_ldc : decode 0x03700005 = .ok (.ldc 7 5) := by decide
theorem test_decode_pldg : decode 0x04100000 = .ok (.pldg 1) := by decide
theorem test_decode_padd : decode 0x10320000 = .ok (.padd 3 2 0) := by decide
theorem test_decode_pdbl : decode 0x11100000 = .ok (.pdbl 1 0) := by decide
theorem test_decode_pneg : decode 0x12100000 = .ok (.pneg 1 0) := by decide
theorem test_decode_pmul : decode 0x13102000 = .ok (.pmul 1 0 2) := by decide
theorem test_decode_pchk : decode 0x14020000 = .ok (.pchk 2) := by decide
theorem test_decode_mred : decode 0x20201000 = .ok (.mred 2 0 1) := by decide
theorem test_decode_mmul : decode 0x21733400 = .ok (.mmul 7 3 3 4) := by decide
theorem test_decode_minv : decode 0x22212000 = .ok (.minv 2 1 2) := by decide
theorem test_decode_mexp : decode 0x23301200 = .ok (.mexp 3 0 1 2) := by decide
theorem test_decode_qrt : decode 0x30002000 = .ok (.qrt 0 2) := by decide
theorem test_decode_bsqrt : decode 0x31501000 = .ok (.bsqrt 5 0 1) := by decide
theorem test_decode_rcrt : decode 0x32301200 = .ok (.rcrt 3 0 1 2) := by decide
theorem test_decode_rvfy : decode 0x33030400 = .ok (.rvfy 3 0 4) := by decide

theorem test_decode_refuses :
    decode 0x05000000 = .error .unassignedOpcode ∧ decode 0x01001000 = .error .nonzeroField ∧
    decode 0x02400000 = .error .registerOutOfRange ∧ decode 0x13008000 = .error .registerOutOfRange ∧
    decode 0x03000006 = .error .badImmediate ∧ decode 0x21000001 = .error .badImmediate := by decide

/-! ## Control and move commands (section 2.3) -/

/-- K1. -/
theorem test_nop_sets_done_and_keeps_t :
    (after (exec .nop ((start [] []).writeT true))).statusWord = 0x0A := by decide +kernel
/-- K2. -/
theorem test_mov_copies_every_limb :
    (after (exec (.mov 3 0) (start [(0, 5), (3, 2 ^ 2048 - 1)] []))).readB 3 = 5 := by decide +kernel
/-- K5: copied raw. -/
theorem test_pmov_copies_raw_infinity :
    (after (exec (.pmov 3 0) (start [] [(0, pRawInf)]))).readP 3 = pRawInf := by decide +kernel
/-- K7: off the curve, no fault. -/
theorem test_pmov_does_not_check :
    (after (exec (.pmov 2 1) (start [] [(1, finite 1 1)]))).readP 2 = finite 1 1 ∧
    (after (exec (.pmov 2 1) (start [] [(1, finite 1 1)]))).statusWord = 0x02 := by decide +kernel
/-- K3, selector 1. -/
theorem test_ldc_loads_n_over_all_limbs :
    (after (exec (.ldc 1 1) (start [(1, 2 ^ 2048 - 1)] []))).readB 1 =
      0xFFFFFFFFFFFFFFFFFFFFFFFFFFFFFFFEBAAEDCE6AF48A03BBFD25E8CD0364141 := by decide +kernel
/-- K3, selector 5. -/
theorem test_ldc_loads_gy :
    (after (exec (.ldc 1 5) (start [] []))).readB 1 =
      0x483ADA7726A3C4655DA4FBFC0E1108A8FD17B448A68554199C47D08FFB10D4B8 := by decide +kernel
/-- K4, H5. -/
theorem test_pldg_loads_g :
    (after (exec (.pldg 0) (start [] []))).peek (wordAddr 0x0240) = 0 ∧
    (after (exec (.pldg 0) (start [] []))).peek (wordAddr 0x0200) = 0x16F81798 ∧
    (after (exec (.pldg 0) (start [] []))).peek (wordAddr 0x023C) = 0x483ADA77 := by decide +kernel

/-! ## Elliptic-curve commands (section 2.4) -/

/-- E2: the secant. -/
theorem test_padd_g_2g : (after (exec (.padd 2 0 1) (start [] [(0, pG), (1, p2G)]))).readP 2 = p3G := by decide +kernel
/-- E26: the range test of the second operand comes before the curve test of the first. -/
theorem test_padd_range_before_curve :
    report (after (exec (.padd 2 0 1) ((start [] [(0, finite 1 1), (1, finite Curve.P 0)]).accept 0x10201000))) =
      (0x06, 0x11, 0x10201000) := by decide +kernel
/-- E1: the tangent. -/
theorem test_pdbl_g : (after (exec (.pdbl 1 0) (start [] [(0, pG)]))).readP 1 = p2G := by decide +kernel
/-- E28. -/
theorem test_pdbl_range :
    (after (exec (.pdbl 2 0) (start [] [(0, finite (2 ^ 256 - 1) 0)]))).errcodeWord = 0x11 := by decide +kernel
/-- E4. -/
theorem test_pneg_g : (after (exec (.pneg 1 0) (start [] [(0, pG)]))).readP 1 = pMinusG := by decide +kernel
/-- K6: canonical Infinity. -/
theorem test_pneg_infinity :
    (after (exec (.pneg 3 0) (start [] [(0, pRawInf)]))).readP 3 = { inf := true, x := 0, y := 0 } := by decide +kernel
/-- E11, `k = 3`. -/
theorem test_pmul_3_g : (after (exec (.pmul 1 0 0) (start [(0, 3)] [(0, pG)]))).readP 1 = p3G := by decide +kernel
/-- E23: the scalar test comes before the curve test. -/
theorem test_pmul_scalar_before_curve :
    (after (exec (.pmul 1 0 0) (start [(0, Curve.N)] [(0, finite 1 1)]))).errcodeWord = 0x02 := by decide +kernel
/-- R99, E4: −G is a member. -/
theorem test_pchk_member :
    (after (exec (.pchk 0) (start [] [(0, pMinusG)]))).statusWord = 0x0A := by decide +kernel
/-- R99: `(1, 1)` is none, and no fault. -/
theorem test_pchk_off_curve :
    (after (exec (.pchk 0) ((start [] [(0, finite 1 1)]).writeT true))).statusWord = 0x02 := by decide +kernel

/-! ## Modular commands (section 2.5) -/

/-- M1. -/
theorem test_mred : (after (exec (.mred 2 0 1) (start [(0, 2 ^ 512 - 1), (1, 77)] []))).readB 2 = 3 := by decide +kernel
/-- M4. -/
theorem test_mred_zero_modulus : (after (exec (.mred 2 0 1) (start [(0, 5)] []))).errcodeWord = 0x11 := by decide +kernel
/-- M6: the exact 4096-bit product. -/
theorem test_mmul_exact_product :
    (after (exec (.mmul 3 0 0 2) (start [(0, 2 ^ 2048 - 1), (2, 2 ^ 2048 - 2)] []))).readB 3 = 1 := by decide +kernel
/-- M5. -/
theorem test_mmul : (after (exec (.mmul 3 0 1 2) (start [(0, 9), (1, 9), (2, 77)] []))).readB 3 = 4 := by decide +kernel
/-- M15: aliasing. -/
theorem test_minv_alias : (after (exec (.minv 2 2 3) (start [(2, 3), (3, 7)] []))).readB 2 = 5 := by decide +kernel
/-- M13. -/
theorem test_minv_not_invertible :
    (after (exec (.minv 2 0 1) (start [(0, 4), (1, 6)] []))).errcodeWord = 0x13 := by decide +kernel
/-- M16. -/
theorem test_mexp : (after (exec (.mexp 3 0 1 2) (start [(0, 2), (1, 10), (2, 1000)] []))).readB 3 = 24 := by
  decide +kernel
/-- M17: `0^0`. -/
theorem test_mexp_zero_zero : (after (exec (.mexp 3 0 1 2) (start [(2, 7)] []))).readB 3 = 1 := by decide +kernel

/-! ## Rabin commands (section 2.6) -/

/-- B1. -/
theorem test_qrt_residue : (after (exec (.qrt 0 1) (start [(0, 4), (1, 7)] []))).statusWord = 0x0A := by decide +kernel
/-- B5: T unchanged. -/
theorem test_qrt_even_modulus :
    (after (exec (.qrt 0 1) ((start [(0, 4), (1, 8)] []).writeT true))).statusWord = 0x0E := by decide +kernel
/-- B10. -/
theorem test_bsqrt : (after (exec (.bsqrt 2 0 1) (start [(0, 2), (1, 7)] []))).readB 2 = 4 := by decide +kernel
/-- B14. -/
theorem test_bsqrt_not_blum : (after (exec (.bsqrt 2 0 1) (start [(0, 4), (1, 5)] []))).errcodeWord = 0x05 := by
  decide +kernel
/-- B22. -/
theorem test_rcrt : (after (exec (.rcrt 3 0 1 2) (start [(0, 37), (1, 7), (2, 11)] []))).readB 3 = 53 := by decide +kernel
/-- B43: OperandRange before InvalidKeyPair. -/
theorem test_rcrt_product_too_wide :
    (after (exec (.rcrt 3 0 1 1) (start [(0, 4), (1, 2 ^ 1024 + 1)] []))).errcodeWord = 0x11 := by decide +kernel
/-- B31. -/
theorem test_rvfy : (after (exec (.rvfy 3 0 4) (start [(3, 53), (0, 37), (4, 77)] []))).statusWord = 0x0A := by
  decide +kernel
/-- B30: a failed verification is no fault. -/
theorem test_rvfy_fails_without_fault :
    report (after (exec (.rvfy 3 0 4) (start [(3, 16), (0, 3), (4, 77)] []))) = (0x02, 0, 0) := by decide +kernel

/-! ## The register map and the handshake (sections 2.1 and 2.7) -/

/-- A state whose host's next action is `act`. -/
def next (act : HostAction) (s : State) : State := { s with bus := [act] }

/-- The state right after the acceptance of `w` (R49). -/
def pending (w : Word) (s : State) : State := s.accept w

/-- A state in which a fault stands latched (R170): MINV of 0 modulo 7, as in X1. -/
def latched : State := after (exec (.minv 2 0 1) (pending 0x22201000 (start [(1, 7), (2, 0xDEAD)] [])))

/-- H8: limb 1 of `b1`. -/
theorem test_limb_write :
    (after (step (next (.write (wordAddr 0x1104) 0xAABBCCDD) State.reset))).readB 1 = 0xAABBCCDD * 2 ^ 32 := by
  decide +kernel
/-- H9. -/
theorem test_inf_write :
    ((after (step (next (.write (wordAddr 0x0240) 0xFFFFFFFE) State.reset))).readP 0).inf = false := by decide +kernel
/-- H3, limbs 0 and 7 of N; H1. -/
theorem test_constant_reads :
    (after (step (next (.read (wordAddr 0x0120)) State.reset))).rdata = 0xD0364141 ∧
    (after (step (next (.read (wordAddr 0x013C)) State.reset))).rdata = 0xFFFFFFFF ∧
    (after (step (next (.read (wordAddr 0x001C)) State.reset))).rdata = 0x01000408 := by decide +kernel
/-- H13: a locked read. -/
theorem test_locked_read :
    (after (step (next (.read (wordAddr 0x1000)) (pending 0x04000000 (start [(0, 5)] []))))).rdata = 0 ∧
    (after (step (next (.read (wordAddr 0x1000)) (pending 0x04000000 (start [(0, 5)] []))))).statusWord = 0x21 := by
  decide +kernel
/-- H14. -/
theorem test_clear_flags :
    (after (step (next (.write (wordAddr 0x0008) 0x32)
      { State.reset with done := true, drop := true, accv := true }))).statusWord = 0 := by decide +kernel
/-- H17: an illegal word, with IE_ERR. -/
theorem test_illegal_word :
    report (after (step (pending 0x05000000 { State.reset with ieErr := true }))) = (0x06, 0x10, 0x05000000) ∧
    (after (step (pending 0x05000000 { State.reset with ieErr := true }))).irq = true := by decide +kernel
/-- H19. -/
theorem test_reset_while_busy :
    (after (step (next .reset (pending 0x04000000 (start [(0, 5)] []))))) = State.reset := by decide +kernel
/-- X1. -/
theorem test_fault_entry :
    report latched = (0x06, 0x01, 0x22201000) ∧ latched.readB 2 = 0xDEAD ∧ latched.cmdreg = 0x22201000 := by
  decide +kernel
/-- X2. -/
theorem test_dropped_command :
    (after (step (next (.write (wordAddr 0x0004) 0) latched))).statusWord = 0x16 ∧
    (after (step (next (.write (wordAddr 0x0004) 0) latched))).cmdreg = 0x22201000 := by decide +kernel
/-- X4. -/
theorem test_fault_return :
    report (after (step (next (.write (wordAddr 0x0008) 0x14) { latched with drop := true }))) = (0x02, 0, 0) := by
  decide +kernel
/-- R60, the host's question: the word runs in the very next step. -/
theorem test_fetch_word :
    (after (step (State.reset.withFetchWord 32 0x04100000))).readP 1 = pG := by decide +kernel

/-! ## Witnesses: states and operands that meet the obligations' hypotheses -/

theorem witness_DecodeReadsEncodedCommand : (Instr.ldc 7 5).WellFormed ∧ (Instr.mmul 7 3 3 4).WellFormed := by decide

theorem witness_EncodeRestoresDecodedWord : decode 0x32301200 = .ok (.rcrt 3 0 1 2) := by decide

theorem witness_DecodeAgreesWithOpcodeMap :
    ((0x03000000, 0xFF8FFFF8) : Word × Word) ∈ opcodeMap ∧
    (0x03700005 : Word) &&& 0xFF8FFFF8 = 0x03000000 ∧ (immField 0x03700005).toNat ≤ 5 ∧
    ¬ (immField 0x03700006).toNat ≤ 5 := by decide

theorem witness_NoTwoRowsMatchOneWord :
    ((0x13000000, 0xFFCC8FFF) : Word × Word) ∈ opcodeMap ∧ (0x13337000 : Word) &&& 0xFFCC8FFF = 0x13000000 := by decide

theorem witness_StepRunsDecodedCommand :
    (pending 0x01300000 State.reset).busy = true ∧ decode (pending 0x01300000 State.reset).cmdreg = .ok (.mov 3 0) ∧
    (pending 0x01300000 State.reset).bus = [] ∧
    (next .pause (pending 0x01300000 State.reset)).bus = .pause :: [] ∧
    decodeTableWord 32 0x33030400 = some (.rvfy 3 0 4) := by decide +kernel

theorem witness_IllegalWordRaisesIllegalCommand :
    (pending 0x05000000 State.reset).busy = true ∧
    (∀ r ∈ opcodeMap, (pending 0x05000000 State.reset).cmdreg &&& r.2 = r.1 →
      r.1 = 0x03000000 ∧ 5 < (immField (pending 0x05000000 State.reset).cmdreg).toNat) ∧
    (∀ r ∈ opcodeMap, (pending 0x03000006 State.reset).cmdreg &&& r.2 = r.1 →
      r.1 = 0x03000000 ∧ 5 < (immField (pending 0x03000006 State.reset).cmdreg).toNat) := by
  simp only [pending, State.accept_cmdreg, State.accept_busy]
  exact ⟨trivial, by simp [opcodeMap], by simp [opcodeMap, immField]⟩

theorem witness_IdleEngineChangesNothing :
    State.reset.busy = false ∧ State.reset.bus = [] ∧ (next .pause State.reset).busy = false ∧
    (next .pause State.reset).bus = .pause :: [] := by decide +kernel

/-- `b0` next to the destination `b1`, and `p1.X` next to the destination `p0`. -/
theorem witness_CommandLeavesOtherWords :
    State.reset.cfg.Legal ∧
    exec (.mov 1 2) State.reset = .next (after (exec (.mov 1 2) State.reset)) ∧
    exec (.pmov 0 2) State.reset = .next (after (exec (.pmov 0 2) State.reset)) ∧
    0x0200 ≤ (wordAddr 0x10FC).offset ∧ 0x0200 ≤ (wordAddr 0x0280).offset ∧
    (∀ r, destB (.mov 1 2) = some r → ¬ (0x1000 + State.reset.cfg.W / 8 * r.val ≤ (wordAddr 0x10FC).offset ∧
      (wordAddr 0x10FC).offset < 0x1000 + State.reset.cfg.W / 8 * (r.val + 1))) ∧
    (∀ r, destP (.mov 1 2) = some r → ¬ (0x0200 + 0x80 * r.val ≤ (wordAddr 0x10FC).offset ∧
      (wordAddr 0x10FC).offset < 0x0200 + 0x80 * (r.val + 1))) ∧
    (∀ r, destB (.pmov 0 2) = some r → ¬ (0x1000 + State.reset.cfg.W / 8 * r.val ≤ (wordAddr 0x0280).offset ∧
      (wordAddr 0x0280).offset < 0x1000 + State.reset.cfg.W / 8 * (r.val + 1))) ∧
    (∀ r, destP (.pmov 0 2) = some r → ¬ (0x0200 + 0x80 * r.val ≤ (wordAddr 0x0280).offset ∧
      (wordAddr 0x0280).offset < 0x0200 + 0x80 * (r.val + 1))) :=
  ⟨by decide +kernel, rfl, rfl, by decide +kernel, by decide +kernel, by decide +kernel, by decide +kernel,
    by decide +kernel, by decide +kernel⟩

/-- Two states that differ in T, CTRL and a register that is no source. -/
theorem witness_CommandDependsOnlyOnItsSources :
    let s := start [(0, 3), (1, 7)] []
    let u := { (start [(0, 3), (1, 7), (2, 9)] []).writeT true with ieDone := true }
    s ≠ u ∧ s.cfg = u.cfg ∧ (∀ r ∈ sourcesB (.minv 2 0 1), s.readB r = u.readB r) ∧
    (∀ r ∈ sourcesP (.minv 2 0 1), s.readP r = u.readP r) := by decide +kernel

theorem witness_LdcLoadsTheSelectedConstant : (5#8).toNat < 6 ∧ 6 ≤ (6#8).toNat := by decide

theorem witness_PaddAddsOrFaults :
    let s := start [] [(0, finite Curve.P 1), (1, finite 1 1), (2, pG), (3, p2G)]
    (s.readP 0).RangeBad ∧ (¬ (s.readP 1).RangeBad ∧ ¬ (s.readP 2).RangeBad ∧ (s.readP 1).EquationBad) ∧
    ((s.readP 2).Member ∧ (s.readP 3).Member) := by decide +kernel

theorem witness_PdblDoublesOrFaults :
    let s := start [] [(0, finite 0 Curve.P), (1, finite 0 0), (2, pG)]
    (s.readP 0).RangeBad ∧ (¬ (s.readP 1).RangeBad ∧ (s.readP 1).EquationBad) ∧ (s.readP 2).Member := by decide +kernel

theorem witness_PnegReflectsOrFaults :
    let s := start [] [(0, finite (2 ^ 256 - 1) 0), (1, finite 0 0), (2, pG), (3, pRawInf)]
    (s.readP 0).RangeBad ∧ (¬ (s.readP 1).RangeBad ∧ (s.readP 1).EquationBad) ∧ (s.readP 3).inf = true ∧
    ((s.readP 2).inf = false ∧ (s.readP 2).Member) := by decide +kernel

theorem witness_PmulMultipliesOrFaults :
    let s := start [(1, Curve.N), (2, 1), (3, Curve.N - 1)] [(0, finite Curve.P 1), (1, finite 1 1), (2, pG)]
    s.readB 0 = 0 ∧ Curve.N ≤ s.readB 1 ∧ (0 < s.readB 2 ∧ s.readB 2 < Curve.N ∧ s.readB 2 = 1) ∧
    (0 < s.readB 3 ∧ s.readB 3 < Curve.N) ∧ (s.readP 0).RangeBad ∧
    (¬ (s.readP 1).RangeBad ∧ (s.readP 1).EquationBad) ∧ (s.readP 2).Member := by decide +kernel

theorem witness_PointAddIsChordAndTangent :
    (pRawInf.Member ∧ pRawInf.inf = true) ∧ (pG.Member ∧ pG.inf = false) ∧
    (pMinusG.Member ∧ pMinusG.inf = false ∧ pG.x = pMinusG.x ∧ pG.y ≠ pMinusG.y) ∧
    (pG.x = pG.x → pG.y = pG.y) ∧ (p2G.Member ∧ p2G.inf = false ∧ pG.x ≠ p2G.x ∧ (pG.x = p2G.x → pG.y = p2G.y)) := by
  decide +kernel

/-- For GroupIdentityLaws, PointResultsStayOnTheCurve, PointMulIsTheRepeatedSum, ScalarBitOrderIsImmaterial and
ScalarMultiplicationCommutes. -/
theorem witness_members : pG.Member ∧ p2G.Member ∧ pRawInf.Member := by decide +kernel

theorem witness_MredReduces : (start [] []).readB 1 = 0 ∧ (start [(1, 1)] []).readB 1 ≠ 0 := by decide +kernel

theorem witness_MmulMultiplies : (start [] []).readB 2 = 0 ∧ (start [(2, 1)] []).readB 2 ≠ 0 := by decide +kernel

/-- `(5, 0)`, `(7, 7)`, `(4, 6)` and `(3, 7)` (M14, M12, M13, M8). -/
theorem witness_MinvInvertsOrFaults :
    let s := start [(0, 5), (2, 7), (3, 4), (4, 6), (5, 3)] []
    s.readB 1 = 0 ∧ (s.readB 2 ≠ 0 ∧ s.readB 2 % s.readB 2 = 0) ∧
    (s.readB 4 ≠ 0 ∧ s.readB 3 % s.readB 4 ≠ 0 ∧ Nat.gcd (s.readB 3 % s.readB 4) (s.readB 4) ≠ 1) ∧
    (s.readB 2 ≠ 0 ∧ s.readB 5 % s.readB 2 ≠ 0 ∧ Nat.gcd (s.readB 5 % s.readB 2) (s.readB 2) = 1) := by decide +kernel

theorem witness_MexpIsThePower : (start [] []).readB 2 = 0 ∧ (start [(2, 1)] []).readB 2 ≠ 0 := by decide +kernel

theorem witness_QrtTestsEulersCriterion :
    let s := start [(1, 2), (2, 4), (3, 3)] []
    s.readB 1 < 3 ∧ s.readB 2 % 2 = 0 ∧ (3 ≤ s.readB 3 ∧ s.readB 3 % 2 = 1) := by decide +kernel

theorem witness_BsqrtTakesTheBlumRoot :
    (start [(1, 5)] []).readB 1 % 4 ≠ 3 ∧ (start [(1, 3)] []).readB 1 % 4 = 3 := by decide +kernel

/-- B43, B40 and B20. -/
theorem witness_RcrtReconstructsOrFaults :
    let s := start [(1, 2 ^ 1024 + 1), (2, 7), (3, 11)] []
    2 ^ s.cfg.W ≤ s.readB 1 * s.readB 1 ∧
    (s.readB 2 * s.readB 2 < 2 ^ s.cfg.W ∧ s.readB 2 = s.readB 2) ∧
    (s.readB 2 * s.readB 3 < 2 ^ s.cfg.W ∧ s.readB 2 % 4 = 3 ∧ s.readB 3 % 4 = 3 ∧ s.readB 2 ≠ s.readB 3) := by
  decide +kernel

theorem witness_RvfyTestsTheCongruence : (start [] []).readB 4 = 0 ∧ (start [(4, 1)] []).readB 4 ≠ 0 := by decide +kernel

/-- B10: 4 is a residue modulo 7. -/
theorem witness_BlumRootSquaresToTheResidue_residue :
    ∃ t, (Nat.Prime ((start [(0, 4), (1, 7)] []).readB 1)) ∧ (start [(0, 4), (1, 7)] []).readB 1 % 4 = 3 ∧
      exec (.bsqrt 2 0 1) (start [(0, 4), (1, 7)] []) = .next t ∧
      ∃ x, x * x % (start [(0, 4), (1, 7)] []).readB 1 = (start [(0, 4), (1, 7)] []).readB 0 % 7 := by
  have h1 : (start [(0, 4), (1, 7)] []).readB 1 = 7 := by decide +kernel
  rw [h1]
  exact ⟨_, by norm_num, by norm_num, next_after (by decide +kernel), 2, by decide +kernel⟩

/-- B10: 3 is a non-residue modulo 7. -/
theorem witness_BlumRootSquaresToTheResidue_nonresidue :
    ∃ t, (Nat.Prime ((start [(0, 3), (1, 7)] []).readB 1)) ∧ (start [(0, 3), (1, 7)] []).readB 1 % 4 = 3 ∧
      exec (.bsqrt 2 0 1) (start [(0, 3), (1, 7)] []) = .next t ∧
      ¬ ∃ x, x * x % (start [(0, 3), (1, 7)] []).readB 1 = (start [(0, 3), (1, 7)] []).readB 0 % 7 := by
  have h1 : (start [(0, 3), (1, 7)] []).readB 1 = 7 := by decide +kernel
  have h0 : (start [(0, 3), (1, 7)] []).readB 0 = 3 := by decide +kernel
  rw [h1, h0]
  refine ⟨_, by norm_num, by norm_num, next_after (by decide +kernel), ?_⟩
  rintro ⟨x, hx⟩
  rw [Nat.mul_mod] at hx
  have := Nat.mod_lt x (show 0 < 7 by decide)
  interval_cases x % 7 <;> simp at hx

/-- B20: `p = 7`, `q = 11`, `h = 4`. -/
theorem witness_RabinRoundTripVerifies :
    let s := start [(0, 4), (1, 7), (2, 11), (4, 77)] []
    ∃ s1 s2 t, (s.readB 1).Prime ∧ (s.readB 2).Prime ∧ s.readB 1 ≠ s.readB 2 ∧ s.readB 1 % 4 = 3 ∧ s.readB 2 % 4 = 3 ∧
      s.readB 1 * s.readB 2 < 2 ^ s.cfg.W ∧ s.readB 4 = s.readB 1 * s.readB 2 ∧ (4 : BReg) ≠ 3 ∧ (0 : BReg) ≠ 3 ∧
      exec (.qrt 0 1) s = .next s1 ∧ s1.tflag = true ∧ exec (.qrt 0 2) s = .next s2 ∧ s2.tflag = true ∧
      exec (.rcrt 3 0 1 2) s = .next t := by
  intro s
  have h1 : s.readB 1 = 7 := by decide +kernel
  have h2 : s.readB 2 = 11 := by decide +kernel
  exact ⟨after (exec (.qrt 0 1) s), after (exec (.qrt 0 2) s), after (exec (.rcrt 3 0 1 2) s),
    by rw [h1]; norm_num, by rw [h2]; norm_num, by decide +kernel, by decide +kernel, by decide +kernel,
    by decide +kernel, by decide +kernel, by decide, by decide, next_after (by decide +kernel), by decide +kernel,
    next_after (by decide +kernel), by decide +kernel, next_after (by decide +kernel)⟩

theorem witness_CommandWriteIsAcceptedOrDropped :
    (next (issue .nop) State.reset).bus = .write (wordAddr 0x0004) 0 :: [] ∧ State.reset.busy = false ∧
    State.reset.err = false ∧ (next (issue .nop) (pending 0 State.reset)).busy = true ∧
    (next (issue .nop) latched).err = true := by decide +kernel

/-- For StatusWriteClearsFlags, CtrlWriteSetsEnables, IrqIsTheEnabledOr and ResetAbandonsEverything. -/
theorem witness_host_actions :
    (next (clr 6) State.reset).bus = .write (wordAddr 0x0008) 6 :: [] ∧
    (next (.write (wordAddr 0x000C) 0) State.reset).bus = .write (wordAddr 0x000C) 0 :: [] ∧
    (next .reset (pending 0x04000000 State.reset)).bus = .reset :: [] := by decide +kernel

/-- The first and the last word of the list: ID, and limb 7 of Gy. -/
theorem witness_ConstantWordsNeverChange :
    ∀ x ∈ ([(0x0000, 0x45434D31), (0x01BC, 0x483ADA77)] : List (Nat × Word)),
      x ∈ [(0x0000, 0x45434D31#32), (0x0018, BitVec.ofNat 32 State.reset.cfg.W), (0x001C, 0x01000408#32)] ++
        (List.range 8).map (fun j => (0x0100 + 4 * j, BitVec.ofNat 32 (Curve.P / 2 ^ (32 * j)))) ++
        (List.range 8).map (fun j => (0x0120 + 4 * j, BitVec.ofNat 32 (Curve.N / 2 ^ (32 * j)))) ++
        (List.range 8).map (fun j => (0x0140 + 4 * j, BitVec.ofNat 32 (Curve.A / 2 ^ (32 * j)))) ++
        (List.range 8).map (fun j => (0x0160 + 4 * j, BitVec.ofNat 32 (Curve.B / 2 ^ (32 * j)))) ++
        (List.range 8).map (fun j => (0x0180 + 4 * j, BitVec.ofNat 32 (Curve.Gx / 2 ^ (32 * j)))) ++
        (List.range 8).map (fun j => (0x01A0 + 4 * j, BitVec.ofNat 32 (Curve.Gy / 2 ^ (32 * j)))) ∧
      (next (.read (wordAddr x.1)) State.reset).bus = .read (wordAddr x.1) :: [] ∧
      (next (.write (wordAddr x.1) 5) State.reset).bus = .write (wordAddr x.1) 5 :: [] := by decide +kernel

/-- For ReadReturnsTheWord and DataRegionIsLockedWhileBusy: the first and last words of the data region, and the last of
the control region. -/
theorem witness_ReadReturnsTheWord :
    let s := pending 0 State.reset
    s.busy = true ∧ State.reset.busy = false ∧ 0x0200 ≤ (wordAddr 0x0200).offset ∧ 0x0200 ≤ (wordAddr 0x3FFC).offset ∧
    (wordAddr 0x01FC).offset < 0x0200 ∧ (next (.read (wordAddr 0x3FFC)) s).bus = .read (wordAddr 0x3FFC) :: [] ∧
    (next (.write (wordAddr 0x0200) 1) s).bus = .write (wordAddr 0x0200) 1 :: [] ∧
    (next (.read (wordAddr 0x01FC)) s).bus = .read (wordAddr 0x01FC) :: [] := by decide +kernel

theorem witness_RegisterMapShowsEveryRegister :
    State.reset.cfg.Legal ∧ (7 : Nat) < 8 ∧ 63 < State.reset.cfg.W / 32 := by decide +kernel

/-- The ends of the five reserved ranges. -/
theorem witness_ReservedWordsReadZero :
    State.reset.cfg.Legal ∧
    ∀ off ∈ [0x0020, 0x00FC, 0x01C0, 0x01FC, 0x0244, 0x027C, 0x03C4, 0x03FC, 0x0400, 0x0FFC, 0x1800, 0x3FFC],
      ((0x0020 ≤ (wordAddr off).offset ∧ (wordAddr off).offset < 0x0100) ∨
        (0x01C0 ≤ (wordAddr off).offset ∧ (wordAddr off).offset < 0x0200) ∨
        (∃ i : PReg, 0x0244 + 0x80 * i.val ≤ (wordAddr off).offset ∧ (wordAddr off).offset < 0x0280 + 0x80 * i.val) ∨
        (0x0400 ≤ (wordAddr off).offset ∧ (wordAddr off).offset < 0x1000) ∨
        0x1000 + State.reset.cfg.W ≤ (wordAddr off).offset) ∧
      (next (.read (wordAddr off)) State.reset).bus = .read (wordAddr off) :: [] ∧
      (next (.write (wordAddr off) 5) State.reset).bus = .write (wordAddr off) 5 :: [] := by decide +kernel

/-- The last limb of `b7`, of `p3.X` and of `p3.Y`, and the INF word of `p3`. -/
theorem witness_LimbWriteReplacesThatLimb :
    State.reset.cfg.Legal ∧ State.reset.busy = false ∧ 63 < State.reset.cfg.W / 32 ∧ (7 : Nat) < 8 ∧
    ∀ a ∈ [wordAddr (bOffset State.reset.cfg.W 7 63), wordAddr (pxOffset 3 7), wordAddr (pyOffset 3 7),
      wordAddr (pinfOffset 3)], (next (.write a 5) State.reset).bus = .write a 5 :: [] := by decide +kernel

theorem witness_DataWriteLeavesOtherWords :
    State.reset.cfg.Legal ∧ State.reset.busy = false ∧ 0x0200 ≤ (wordAddr 0x0200).offset ∧
    wordAddr 0x01FC ≠ wordAddr 0x0200 ∧ wordAddr 0x0204 ≠ wordAddr 0x0200 ∧
    (next (.write (wordAddr 0x0200) 5) State.reset).bus = .write (wordAddr 0x0200) 5 :: [] := by decide +kernel

/-- A command offered while the latch is set. -/
theorem witness_FaultLatchHolds :
    let s := next (.write (wordAddr 0x0004) 0) latched
    ∃ t, HandshakeLegal s ∧ s.err = true ∧ step s = .next t ∧
      (∀ v rest, s.bus = .write (wordAddr 0x0008) v :: rest → v.getLsbD 2 = false) ∧
      (∀ rest, s.bus ≠ .reset :: rest) := by
  intro s
  have ne : wordAddr 0x0004 ≠ wordAddr 0x0008 := by decide
  refine ⟨after (step s), fun h => absurd h (by decide +kernel), by decide +kernel, next_after (by decide +kernel), ?_, ?_⟩
  · intro v rest h
    injection h with h1
    injection h1 with h2
    exact absurd h2 ne
  · intro rest h
    injection h with h1
    cases h1

/-- PCHK of G completes; reset with T = 1. -/
theorem witness_OnlyPredicatesWriteT :
    (∃ t, step (pending 0x14000000 (start [] [(0, pG)])) = .next t ∧
      t.tflag ≠ (pending 0x14000000 (start [] [(0, pG)])).tflag) ∧
    (∃ t, step (next .reset (State.reset.writeT true)) = .next t ∧
      t.tflag ≠ (next .reset (State.reset.writeT true)).tflag) :=
  ⟨⟨_, next_after (by decide +kernel), by decide +kernel⟩, ⟨_, next_after (by decide +kernel), by decide +kernel⟩⟩

/-- A register changed in each of the three ways: reset, a host write, a command. -/
theorem witness_RegistersChangeOnlyAsNamed :
    State.reset.cfg.Legal ∧
    (∀ s ∈ [next .reset (start [(0, 5)] []), next (.write (wordAddr 0x1000) 1) State.reset,
        pending 0x03000003 State.reset],
      s.cfg = State.reset.cfg ∧ step s = .next (after (step s)) ∧ (after (step s)).readB 0 ≠ s.readB 0) ∧
    (∀ s ∈ [next .reset (start [] [(0, pG)]), next (.write (wordAddr 0x0240) 0) State.reset,
        pending 0x04000000 State.reset],
      s.cfg = State.reset.cfg ∧ step s = .next (after (step s)) ∧ (after (step s)).readP 0 ≠ s.readP 0) := by
  refine ⟨by decide +kernel, ?_, ?_⟩
  · intro s hs
    have h : ∀ s ∈ [next .reset (start [(0, 5)] []), next (.write (wordAddr 0x1000) 1) State.reset,
        pending 0x03000003 State.reset],
        s.cfg = State.reset.cfg ∧ isNext (step s) = true ∧ (after (step s)).readB 0 ≠ s.readB 0 := by decide +kernel
    exact ⟨(h s hs).1, next_after (h s hs).2.1, (h s hs).2.2⟩
  · intro s hs
    have h : ∀ s ∈ [next .reset (start [] [(0, pG)]), next (.write (wordAddr 0x0240) 0) State.reset,
        pending 0x04000000 State.reset],
        s.cfg = State.reset.cfg ∧ isNext (step s) = true ∧ (after (step s)).readP 0 ≠ s.readP 0 := by decide +kernel
    exact ⟨(h s hs).1, next_after (h s hs).2.1, (h s hs).2.2⟩

/-- A busy state, and one with a latched fault, meet the invariant. -/
theorem witness_StepKeepsTheInvariant :
    (∃ t, Inv (pending 0x03000003 State.reset) ∧ step (pending 0x03000003 State.reset) = .next t) ∧ Inv latched := by
  refine ⟨⟨_, ⟨by decide +kernel, ?_, ?_, ?_⟩, next_after (by decide +kernel)⟩, ⟨by decide +kernel, ?_, ?_, ?_⟩⟩
  · unfold Fits; decide +kernel
  · exact fun _ => by decide +kernel
  · exact ⟨fun _ => by decide +kernel, fun h => absurd h (by decide +kernel)⟩
  · unfold Fits; decide +kernel
  · exact fun h => absurd h (by decide +kernel)
  · exact ⟨fun h => absurd h (by decide +kernel), fun _ => ⟨by decide +kernel, .divisionByZero, by decide +kernel⟩⟩

theorem witness_WrbLoadsTheRegister :
    let s := { State.reset with bus := wrb State.reset.cfg.W 7 (2 ^ 2048 - 1) ++ [] }
    s.cfg.Legal ∧ Fits s ∧ s.busy = false ∧ 2 ^ 2048 - 1 < 2 ^ s.cfg.W ∧
    s.bus = wrb s.cfg.W 7 (2 ^ 2048 - 1) ++ [] := by
  refine ⟨by decide +kernel, ?_, rfl, by decide +kernel, rfl⟩
  unfold Fits; decide +kernel

theorem witness_IssueAndWaitRunsTheCommand :
    let s := { State.reset with bus := issue (.pldg 0) :: (wait 2 ++ []) }
    (Instr.pldg 0).WellFormed ∧ s.busy = false ∧ s.err = false ∧ s.bus = issue (.pldg 0) :: (wait 2 ++ []) :=
  ⟨rfl, rfl, rfl, rfl⟩

end Sys2Proof.Tests
end

/-! SUPPORT. Proofs of the statements of spec/00_scope.md: the invariant holds at reset and every step keeps it, and a
command's outcome is a function of `W` and of its sources. -/

namespace Sys2Proof.Machine

/-! ## The faults that the block raises (spec/60_exceptions.md R163, R164) -/

/-- A fault the block raises: not one of the two reserved codes 0x03 and 0x04. -/
abbrev FaultCode.Raised (c : FaultCode) : Prop := c ≠ .signatureSearchExhausted ∧ c ≠ .verificationFailure

/-- Every fault in the result `r` is one that the block raises. -/
def RaisesOnly {α : Type} (r : Except FaultCode α) : Prop := ∀ c, r = .error c → c.Raised

namespace RaisesOnly

variable {α β : Type}

theorem ok (a : α) : RaisesOnly (.ok a) := fun _ h => nomatch h

theorem error {c : FaultCode} (hc : c.Raised) : RaisesOnly (.error c : Except FaultCode α) :=
  fun d hd => by cases hd; exact hc

theorem bind {x : Except FaultCode α} {f : α → Except FaultCode β} (hx : RaisesOnly x)
    (hf : ∀ a, RaisesOnly (f a)) : RaisesOnly (x >>= f) := by
  cases x with
  | ok a => exact hf a
  | error c => exact error (hx c rfl)

theorem ite {p : Prop} [Decidable p] {x y : Except FaultCode α} (hx : RaisesOnly x) (hy : RaisesOnly y) :
    RaisesOnly (if p then x else y) := by
  split
  · exact hx
  · exact hy

end RaisesOnly

theorem inv_raisesOnly (k m : Nat) : RaisesOnly (inv k m) :=
  .ite (.error (by decide)) (.ite (.ok _) (.error (by decide)))

theorem checkPoints_raisesOnly (qs : List Point) : RaisesOnly (checkPoints qs) :=
  .ite (.error (by decide)) (.ite (.error (by decide)) (.ok _))

theorem tangentSlope_raisesOnly (x1 y1 : Nat) : RaisesOnly (tangentSlope x1 y1) :=
  (inv_raisesOnly _ _).bind fun _ => .ok _

theorem secantSlope_raisesOnly (x1 y1 x2 y2 : Nat) : RaisesOnly (secantSlope x1 y1 x2 y2) :=
  (inv_raisesOnly _ _).bind fun _ => .ok _

/-- The only faults of the group law are those of its slopes (R92). -/
theorem pointAdd_raisesOnly (q1 q2 : Point) : RaisesOnly (pointAdd q1 q2) :=
  .ite (.ok _) (.ite (.ok _)
    (.ite (.ite ((tangentSlope_raisesOnly _ _).bind fun _ => .ok _) (.ok _))
      ((secantSlope_raisesOnly _ _ _ _).bind fun _ => .ok _)))

theorem pointMulLoop_raisesOnly (k : Nat) (q : Point) (i : Nat) : ∀ r, RaisesOnly (pointMulLoop k q i r) := by
  induction i with
  | zero => exact fun r => .ok r
  | succ i ih =>
    exact fun r => (pointAdd_raisesOnly r r).bind fun d =>
      .ite ((pointAdd_raisesOnly d q).bind ih) ((RaisesOnly.ok d).bind ih)

theorem withModulus_raisesOnly {r : Except FaultCode Nat} (m : Nat) (hr : RaisesOnly r) :
    RaisesOnly (withModulus m r) := .ite (.error (by decide)) hr

/-! ## Results of `W` bits (spec/00_scope.md R7, spec/10_state.md R12) -/

variable {s t u : State}

theorem inv_lt {k m v : Nat} (hm : 0 < m) (h : inv k m = .ok v) : v < m := by
  rcases inv_cases k m hm with ⟨-, he⟩ | ⟨-, -, he⟩ | ⟨-, -, r, he, hr, -⟩
  · cases h.symm.trans he
  · cases h.symm.trans he
  · cases h.symm.trans he; exact hr

/-- Behind R117's test the modulus is positive, so a result below every positive modulus is below this one. -/
theorem withModulus_lt {m v : Nat} {r : Except FaultCode Nat} (hr : 0 < m → ∀ v, r = .ok v → v < m)
    (h : withModulus m r = .ok v) : v < m := by
  unfold withModulus at h
  split at h
  · cases h
  · exact hr (by omega) v h

theorem modexp_lt {b e m : Nat} (hm : 0 < m) : modexp b e m < m := by
  rw [modexp_eq]; exact Nat.mod_lt _ hm

theorem pos_of_blum {p : Nat} (h : blum p = true) : 0 < p := by
  simp only [blum, beq_iff_eq] at h; omega

/-- LDC's constants have at most 256 bits (R4, R8). -/
theorem constant?_lt {sel v : Nat} (h : constant? sel = some v) : v < 2 ^ 256 := by
  unfold constant? at h
  split at h <;> cases h <;> decide

theorem Fits.of_readB_eq (hs : Fits s) (hcfg : t.cfg = s.cfg) (hb : ∀ r, t.readB r = s.readB r) : Fits t :=
  fun r => by rw [hb, hcfg]; exact hs r

theorem Fits.of_wroteB {bd : BReg} {v : Nat} (hs : Fits s) (w : WroteB s t bd v) (hv : v < 2 ^ s.cfg.W) : Fits t := by
  intro r
  rw [w.cfg]
  by_cases hr : r = bd
  · rw [hr, w.value]; exact hv
  · rw [w.b r hr]; exact hs r

theorem Fits.writeB {i : BReg} {v : Nat} (hs : Fits s) (hv : v < 2 ^ s.cfg.W) : Fits (s.writeB i v) :=
  Fits.of_readB_eq (hs.of_wroteB (wroteB_complete s i v) hv) rfl fun _ => rfl

/-! ## How a command ends in a legal state -/

/-- A command ends well: with success and registers that fit, or with a fault that the block raises. -/
def EndsWell (s t : State) : Prop := (Succeeds s t ∧ Fits t) ∨ ∃ c : FaultCode, c.Raised ∧ Faulted s t c

theorem EndsWell.cfg (h : EndsWell s t) : t.cfg = s.cfg := by
  rcases h with ⟨w, -⟩ | ⟨_, -, w⟩ <;> exact w.cfg

theorem endsWell_finishB {bd : BReg} {r : Except FaultCode Nat} (hs : Fits s) (hr : RaisesOnly r)
    (hv : ∀ v, r = .ok v → v < 2 ^ s.cfg.W) (h : finishB s bd r = .next t) : EndsWell s t := by
  rcases finishB_cases h with ⟨v, he, w⟩ | ⟨c, he, w⟩
  · exact .inl ⟨w.toSucceeds, hs.of_wroteB w (hv v he)⟩
  · exact .inr ⟨c, hr c he, w⟩

theorem endsWell_finishP {pd : PReg} {r : Except FaultCode Point} (hs : Fits s) (hr : RaisesOnly r)
    (h : finishP s pd r = .next t) : EndsWell s t := by
  rcases finishP_cases h with ⟨q, -, w⟩ | ⟨c, he, w⟩
  · exact .inl ⟨w.toSucceeds, hs.of_readB_eq w.cfg w.b⟩
  · exact .inr ⟨c, hr c he, w⟩

theorem endsWell_finishT {r : Except FaultCode Bool} (hs : Fits s) (hr : RaisesOnly r)
    (h : finishT s r = .next t) : EndsWell s t := by
  rcases finishT_cases h with ⟨v, -, w⟩ | ⟨c, he, w⟩
  · exact .inl ⟨w.toSucceeds, hs.of_readB_eq w.cfg w.b⟩
  · exact .inr ⟨c, hr c he, w⟩

/-- A command whose result is a residue modulo the register `bm` (R113 to R116). -/
theorem endsWell_withModulus {bd bm : BReg} {r : Except FaultCode Nat} (hs : Fits s) (hr : RaisesOnly r)
    (hv : 0 < s.readB bm → ∀ v, r = .ok v → v < s.readB bm)
    (h : finishB s bd (withModulus (s.readB bm) r) = .next t) : EndsWell s t :=
  endsWell_finishB hs (withModulus_raisesOnly _ hr) (fun _ he => (withModulus_lt hv he).trans (hs bm)) h

theorem execLdc_endsWell {bd : BReg} {sel : BitVec 8} (hL : s.cfg.Legal) (hs : Fits s)
    (h : execLdc bd sel s = .next t) : EndsWell s t := by
  unfold execLdc at h
  cases hc : constant? sel.toNat with
  | some c =>
    rw [hc] at h
    refine endsWell_finishB hs (.ok c) (fun v he => ?_) h
    cases he
    exact (constant?_lt hc).trans_le (Nat.pow_le_pow_right (by decide) (by omega))
  | none =>
    rw [hc] at h
    exact endsWell_finishB hs (.error (by decide)) (fun _ he => by cases he) h

/-- BSQRT's root is a residue modulo `p` (R127). -/
theorem execBsqrt_endsWell {bd ba bp : BReg} (hs : Fits s) (h : execBsqrt bd ba bp s = .next t) : EndsWell s t := by
  refine endsWell_finishB hs (.ite (.ok _) (.error (by decide))) (fun v he => ?_) h
  split at he
  next hb => cases he; exact (modexp_lt (pos_of_blum hb)).trans (hs bp)
  next => cases he

/-- RCRT's root is a residue modulo `p · q`, which passed the test against `2^W` (R128). -/
theorem execRcrt_endsWell {bd bh bp bq : BReg} (hs : Fits s) (h : execRcrt bd bh bp bq s = .next t) :
    EndsWell s t := by
  refine endsWell_finishB hs (.ite (.error (by decide)) (.ite (.error (by decide)) (.ok _))) (fun v he => ?_) h
  split at he
  next => cases he
  next hw =>
    split at he
    next => cases he
    next hk =>
      cases he
      simp only [Bool.or_eq_true, Bool.not_eq_true', not_or, Bool.not_eq_false] at hk
      obtain ⟨⟨hp, hq⟩, -⟩ := hk
      exact (Nat.mod_lt _ (Nat.mul_pos (pos_of_blum hp) (pos_of_blum hq))).trans
        ((bitlen_le_iff _ _).1 (Nat.le_of_not_lt hw))

/-- Every command, from registers that fit, ends well. -/
theorem exec_endsWell (i : Instr) (hL : s.cfg.Legal) (hs : Fits s) (h : exec i s = .next t) : EndsWell s t := by
  cases i with
  | nop =>
    cases h
    exact .inl ⟨(wroteNothing_complete s).toSucceeds, hs.of_readB_eq rfl fun _ => rfl⟩
  | mov bd ba =>
    exact endsWell_finishB (r := .ok (s.readB ba)) hs (.ok _) (fun v he => by cases he; exact hs ba) h
  | pmov pd pa => exact endsWell_finishP (r := .ok (s.readP pa)) hs (.ok _) h
  | ldc bd sel => exact execLdc_endsWell hL hs h
  | pldg pd => exact endsWell_finishP (r := .ok Point.generator) hs (.ok _) h
  | padd pd pa pb =>
    exact endsWell_finishP hs ((checkPoints_raisesOnly _).bind fun _ => pointAdd_raisesOnly _ _) h
  | pdbl pd pa =>
    exact endsWell_finishP hs ((checkPoints_raisesOnly _).bind fun _ => pointAdd_raisesOnly _ _) h
  | pneg pd pa => exact endsWell_finishP hs ((checkPoints_raisesOnly _).bind fun _ => .ok _) h
  | pmul pd pa bk =>
    exact endsWell_finishP hs
      (.ite (.error (by decide)) ((checkPoints_raisesOnly _).bind fun _ => pointMulLoop_raisesOnly _ _ _ _)) h
  | pchk pa => exact endsWell_finishT (r := .ok (s.readP pa).isMember) hs (.ok _) h
  | mred bd ba bm =>
    exact endsWell_withModulus hs (.ok _) (fun hm v he => by cases he; exact Nat.mod_lt _ hm) h
  | mmul bd ba bb bm =>
    exact endsWell_withModulus hs (.ok _) (fun hm v he => by cases he; exact Nat.mod_lt _ hm) h
  | minv bd bk bm => exact endsWell_withModulus hs (inv_raisesOnly _ _) (fun hm _ he => inv_lt hm he) h
  | mexp bd bb be bm =>
    exact endsWell_withModulus hs (.ok _) (fun hm v he => by cases he; exact modexp_lt hm) h
  | qrt ba bp => exact endsWell_finishT hs (.ite (.error (by decide)) (.ok _)) h
  | bsqrt bd ba bp => exact execBsqrt_endsWell hs h
  | rcrt bd bh bp bq => exact execRcrt_endsWell hs h
  | rvfy bs bh bn => exact endsWell_finishT hs (.ite (.error (by decide)) (.ok _)) h

/-! ## The invariant: at reset, and under the engine's and the host's actions -/

theorem inv_initial {c : Config} (acts : List HostAction) (hc : c.Legal) : Inv (State.initial c acts) where
  config := hc
  fits r := by rw [State.readB_initial]; exact Nat.two_pow_pos _
  handshake h := nomatch h
  latch := ⟨fun _ => ⟨rfl, rfl⟩, fun h => nomatch h⟩

/-- A command runs only with ERR = 0 (R16), so its success leaves ERRCODE at NoError and its fault latches its own word. -/
theorem EndsWell.inv (h : EndsWell s t) (hI : Inv s) (hb : s.busy = true) : Inv t := by
  rcases h with ⟨w, hf⟩ | ⟨c, hc, w⟩
  · have herr : s.err = false := (hI.handshake hb).2
    obtain ⟨hcode, hinfo⟩ := hI.latch.1 herr
    exact {
      config := w.cfg ▸ hI.config
      fits := hf
      handshake := fun hbt => absurd hbt (by simp [w.busy])
      latch := ⟨fun _ => ⟨w.errcode.trans hcode, w.errinfo.trans hinfo⟩,
        fun het => absurd het (by simp [w.err, herr])⟩ }
  · exact {
      config := w.cfg ▸ hI.config
      fits := hI.fits.of_readB_eq w.cfg w.b
      handshake := fun hbt => absurd hbt (by simp [w.busy])
      latch := ⟨fun het => absurd het (by simp [w.err]),
        fun _ => ⟨w.errinfo.trans w.cmdreg.symm, c, w.errcode, hc⟩⟩ }

theorem engineTurn_keeps_inv (hI : Inv s) (h : engineTurn s = .next t) : Inv t ∧ t.cfg = s.cfg := by
  obtain ⟨t', ht', hcases⟩ := engineTurn_cases s
  cases h.symm.trans ht'
  rcases hcases with ⟨-, rfl⟩ | ⟨hb, i, -, hx, -⟩ | ⟨hb, -, hf⟩
  · exact ⟨hI, rfl⟩
  · have he := exec_endsWell i hI.config hI.fits hx
    exact ⟨he.inv hI hb, he.cfg⟩
  · have he : EndsWell s t := .inr ⟨_, by decide, hf⟩
    exact ⟨he.inv hI hb, he.cfg⟩

/-- An accepted command starts in a state with ERR = 0, and DONE is cleared (R49). -/
theorem inv_offer (hI : Inv s) (v : Word) : Inv (s.offer v) := by
  unfold State.offer
  split
  next => exact ⟨hI.config, hI.fits, hI.handshake, hI.latch⟩
  next hn =>
    have herr : s.err = false := by
      simp only [Bool.or_eq_true, not_or, Bool.not_eq_true] at hn
      exact hn.2
    exact {
      config := hI.config
      fits := hI.fits
      handshake := fun _ => ⟨rfl, herr⟩
      latch := ⟨hI.latch.1, fun het => absurd het (by simp [herr])⟩ }

/-- Bit 2 of a STATUS write clears ERR, ERRCODE and ERRINFO together (R54, R173). -/
theorem inv_writeStatus (hI : Inv s) (v : Word) : Inv (s.writeStatus v) where
  config := by simpa using hI.config
  fits := hI.fits.of_readB_eq (by simp) (by simp)
  handshake hb := by
    obtain ⟨hd, he⟩ := hI.handshake (by simpa using hb)
    simp [hd, he]
  latch := by
    unfold LatchLegal
    rw [State.writeStatus_err, State.writeStatus_errcode, State.writeStatus_errinfo, State.writeStatus_cmdreg]
    cases v.getLsbD 2 with
    | false => simpa [LatchLegal] using hI.latch
    | true => simp

/-- Every word's write keeps the invariant, when a limb lies inside its register (R43). -/
theorem inv_writeWord (hI : Inv s) (w : MapWord) (v : Word)
    (hw : ∀ i j, w = .b i j → 32 * (j + 1) ≤ s.cfg.W) : Inv (s.writeWord w v) := by
  cases w with
  | cmd => exact inv_offer hI v
  | status => exact inv_writeStatus hI v
  | b i j =>
    have hlt := setLimb_lt v (hI.fits i) (hw i j rfl)
    exact ⟨hI.config, hI.fits.writeB hlt, hI.handshake, hI.latch⟩
  | ctrl => exact ⟨hI.config, hI.fits, hI.handshake, hI.latch⟩
  | px i j => exact ⟨hI.config, hI.fits, hI.handshake, hI.latch⟩
  | py i j => exact ⟨hI.config, hI.fits, hI.handshake, hI.latch⟩
  | pinf i => exact ⟨hI.config, hI.fits, hI.handshake, hI.latch⟩
  | id => exact hI
  | errcode => exact hI
  | errinfo => exact hI
  | paramW => exact hI
  | paramCfg => exact hI
  | curve k j => exact hI
  | reserved => exact hI

theorem writeWord_cfg (s : State) (w : MapWord) (v : Word) : (s.writeWord w v).cfg = s.cfg := by
  cases w with
  | cmd => show (s.offer v).cfg = s.cfg; unfold State.offer; split <;> rfl
  | status => exact State.writeStatus_cfg s v
  | _ => rfl

theorem busRead_keeps_inv (hI : Inv s) (a : WordAddr) : Inv (s.busRead a) ∧ (s.busRead a).cfg = s.cfg := by
  rcases busRead_cases s a with ⟨-, he⟩ | ⟨-, he⟩ <;> rw [he] <;>
    exact ⟨⟨hI.config, hI.fits, hI.handshake, hI.latch⟩, rfl⟩

theorem busWrite_keeps_inv (hI : Inv s) (a : WordAddr) (v : Word) :
    Inv (s.busWrite a v) ∧ (s.busWrite a v).cfg = s.cfg := by
  rcases busWrite_cases s a v with ⟨-, he⟩ | ⟨-, he⟩ <;> rw [he]
  · exact ⟨⟨hI.config, hI.fits, hI.handshake, hI.latch⟩, rfl⟩
  · obtain ⟨hmod, hmin, -⟩ := hI.config
    exact ⟨inv_writeWord hI _ v fun i j => mapWord_b_bound hmod (by omega), writeWord_cfg s _ v⟩

/-- Settles O54: the engine's turn by how a command ends, a host action by what it writes. -/
theorem stepKeepsTheInvariant : Obligations.StepKeepsTheInvariant := by
  unfold Obligations.StepKeepsTheInvariant
  intro s t hI h
  have hbus (rest : List HostAction) : Inv { s with bus := rest } :=
    ⟨hI.config, hI.fits, hI.handshake, hI.latch⟩
  obtain ⟨t', ht', hcases⟩ := step_cases s
  cases h.symm.trans ht'
  rcases hcases with ⟨-, he⟩ | ⟨rest, -, he⟩ | ⟨a, rest, -, rfl⟩ | ⟨a, v, rest, -, rfl⟩ | ⟨rest, -, rfl⟩
  · exact engineTurn_keeps_inv hI he
  · exact (engineTurn_keeps_inv (hbus rest) he :)
  · exact busRead_keeps_inv (hbus rest) a
  · exact busWrite_keeps_inv (hbus rest) a v
  · exact ⟨inv_initial rest hI.config, rfl⟩

/-- Settles O56: the default width is legal, and reset meets the invariant at every legal width. -/
theorem resetMeetsTheInvariant : Obligations.ResetMeetsTheInvariant :=
  inv_initial [] (by decide)

/-! ## A command's outcome is a function of its sources (spec/00_scope.md R9) -/

/-- `i` ended alike in `s'` from `s` and in `u'` from `u`: the same fault, or the same value in the destination. -/
def EndedAlike (i : Instr) (s u s' u' : State) : Prop :=
  (∃ c, Faulted s s' c ∧ Faulted u u' c) ∨
  (Succeeds s s' ∧ Succeeds u u' ∧ (∀ r, destB i = some r → s'.readB r = u'.readB r) ∧
    (∀ r, destP i = some r → s'.readP r = u'.readP r) ∧ (writesT i = true → s'.tflag = u'.tflag))

/-- The two answers `o` from `s` and `o'` from `u` are next states in which `i` ended alike. -/
def AnswersAlike (i : Instr) (s u : State) (o o' : Out) : Prop :=
  ∃ s' u', o = .next s' ∧ o' = .next u' ∧ EndedAlike i s u s' u'

theorem answersAlike_finishB {i : Instr} {bd : BReg} {r r' : Except FaultCode Nat} (hB : destB i = some bd)
    (hP : destP i = none) (hT : writesT i = false) (hr : r = r') :
    AnswersAlike i s u (finishB s bd r) (finishB u bd r') := by
  subst hr
  cases r with
  | error c => exact ⟨_, _, rfl, rfl, .inl ⟨c, keepsInterface_takeFault s c, keepsInterface_takeFault u c⟩⟩
  | ok v =>
    have ws := wroteB_complete s bd v
    have wu := wroteB_complete u bd v
    refine ⟨_, _, rfl, rfl, .inr ⟨ws.toSucceeds, wu.toSucceeds, fun r h => ?_, by simp [hP], by simp [hT]⟩⟩
    obtain rfl : bd = r := by simpa [hB] using h
    exact ws.value.trans wu.value.symm

theorem answersAlike_finishP {i : Instr} {pd : PReg} {r r' : Except FaultCode Point} (hB : destB i = none)
    (hP : destP i = some pd) (hT : writesT i = false) (hr : r = r') :
    AnswersAlike i s u (finishP s pd r) (finishP u pd r') := by
  subst hr
  cases r with
  | error c => exact ⟨_, _, rfl, rfl, .inl ⟨c, keepsInterface_takeFault s c, keepsInterface_takeFault u c⟩⟩
  | ok q =>
    have ws := wroteP_complete s pd q
    have wu := wroteP_complete u pd q
    refine ⟨_, _, rfl, rfl, .inr ⟨ws.toSucceeds, wu.toSucceeds, by simp [hB], fun r h => ?_, by simp [hT]⟩⟩
    obtain rfl : pd = r := by simpa [hP] using h
    exact ws.value.trans wu.value.symm

theorem answersAlike_finishT {i : Instr} {r r' : Except FaultCode Bool} (hB : destB i = none)
    (hP : destP i = none) (hr : r = r') : AnswersAlike i s u (finishT s r) (finishT u r') := by
  subst hr
  cases r with
  | error c => exact ⟨_, _, rfl, rfl, .inl ⟨c, keepsInterface_takeFault s c, keepsInterface_takeFault u c⟩⟩
  | ok v =>
    exact ⟨_, _, rfl, rfl, .inr ⟨(wroteT_complete s v).toSucceeds, (wroteT_complete u v).toSucceeds,
      by simp [hB], by simp [hP], fun _ => rfl⟩⟩

/-- Every command's result is computed from `W` and its sources, so it is the same result in both states. -/
theorem exec_answersAlike (i : Instr) (hcfg : s.cfg = u.cfg) (hB : ∀ r ∈ sourcesB i, s.readB r = u.readB r)
    (hP : ∀ r ∈ sourcesP i, s.readP r = u.readP r) : AnswersAlike i s u (exec i s) (exec i u) := by
  cases i with
  | nop =>
    exact ⟨_, _, rfl, rfl, .inr ⟨(wroteNothing_complete s).toSucceeds, (wroteNothing_complete u).toSucceeds,
      by simp [destB], by simp [destP], by simp [writesT]⟩⟩
  | mov bd ba =>
    exact answersAlike_finishB (r := .ok (s.readB ba)) (r' := .ok (u.readB ba)) rfl rfl rfl
      (by simp_all [sourcesB])
  | pmov pd pa =>
    exact answersAlike_finishP (r := .ok (s.readP pa)) (r' := .ok (u.readP pa)) rfl rfl rfl
      (by simp_all [sourcesP])
  | ldc bd sel => exact answersAlike_finishB rfl rfl rfl rfl
  | pldg pd =>
    exact answersAlike_finishP (r := .ok Point.generator) (r' := .ok Point.generator) rfl rfl rfl rfl
  | padd pd pa pb => exact answersAlike_finishP rfl rfl rfl (by simp_all [sourcesP])
  | pdbl pd pa => exact answersAlike_finishP rfl rfl rfl (by simp_all [sourcesP])
  | pneg pd pa => exact answersAlike_finishP rfl rfl rfl (by simp_all [sourcesP])
  | pmul pd pa bk => exact answersAlike_finishP rfl rfl rfl (by simp_all [sourcesB, sourcesP])
  | pchk pa =>
    exact answersAlike_finishT (r := .ok (s.readP pa).isMember) (r' := .ok (u.readP pa).isMember) rfl rfl
      (by simp_all [sourcesP])
  | mred bd ba bm => exact answersAlike_finishB rfl rfl rfl (by simp_all [sourcesB])
  | mmul bd ba bb bm => exact answersAlike_finishB rfl rfl rfl (by simp_all [sourcesB])
  | minv bd bk bm => exact answersAlike_finishB rfl rfl rfl (by simp_all [sourcesB])
  | mexp bd bb be bm => exact answersAlike_finishB rfl rfl rfl (by simp_all [sourcesB])
  | qrt ba bp => exact answersAlike_finishT rfl rfl (by simp_all [sourcesB])
  | bsqrt bd ba bp => exact answersAlike_finishB rfl rfl rfl (by simp_all [sourcesB])
  | rcrt bd bh bp bq => exact answersAlike_finishB rfl rfl rfl (by simp_all [sourcesB])
  | rvfy bs bh bn => exact answersAlike_finishT rfl rfl (by simp_all [sourcesB])

/-- Settles O11: two states that agree on the sources give the command one and the same result. -/
theorem commandDependsOnlyOnItsSources : Obligations.CommandDependsOnlyOnItsSources :=
  fun i _ _ hcfg hB hP => exec_answersAlike i hcfg hB hP

end Sys2Proof.Machine

/-! SUPPORT. Proofs of the statements of spec/10_state.md: what the reset state holds, which words are constant, what a
command leaves unchanged, and the only steps that change T or a data register. -/

namespace Sys2Proof.Machine

variable {s t : State}

/-! ## What a command can have changed (spec/40_control.md R85, spec/60_exceptions.md R172) -/

theorem Ends.cfg {i : Instr} (h : Ends i s t) : t.cfg = s.cfg := by
  rcases h with ⟨-, -, -, w⟩ | ⟨_, _, -, w⟩ | ⟨_, _, -, w⟩ | ⟨_, -, w⟩ | ⟨_, w⟩ <;> exact w.cfg

/-- A big-integer register changes only as the destination of a command that succeeds. -/
theorem Ends.readB_changed {i : Instr} {r : BReg} (h : Ends i s t) (hr : t.readB r ≠ s.readB r) :
    destB i = some r ∧ t.errcode = s.errcode := by
  rcases h with ⟨-, -, -, w⟩ | ⟨bd, _, hd, w⟩ | ⟨_, _, -, w⟩ | ⟨_, -, w⟩ | ⟨_, w⟩
  · exact absurd (w.b r) hr
  · obtain rfl : r = bd := by_contra fun hne => hr (w.b r hne)
    exact ⟨hd, w.errcode⟩
  · exact absurd (w.b r) hr
  · exact absurd (w.b r) hr
  · exact absurd (w.b r) hr

/-- A point register changes only as the destination of a command that succeeds. -/
theorem Ends.readP_changed {i : Instr} {r : PReg} (h : Ends i s t) (hr : t.readP r ≠ s.readP r) :
    destP i = some r ∧ t.errcode = s.errcode := by
  rcases h with ⟨-, -, -, w⟩ | ⟨_, _, -, w⟩ | ⟨pd, _, hd, w⟩ | ⟨_, -, w⟩ | ⟨_, w⟩
  · exact absurd (w.p r) hr
  · exact absurd (w.p r) hr
  · obtain rfl : r = pd := by_contra fun hne => hr (w.p r hne)
    exact ⟨hd, w.errcode⟩
  · exact absurd (w.p r) hr
  · exact absurd (w.p r) hr

/-- T changes only by the success of a command whose destination it is. -/
theorem Ends.tflag_changed {i : Instr} (h : Ends i s t) (ht : t.tflag ≠ s.tflag) :
    writesT i = true ∧ t.errcode = s.errcode := by
  rcases h with ⟨-, -, -, w⟩ | ⟨_, _, -, w⟩ | ⟨_, _, -, w⟩ | ⟨_, hd, w⟩ | ⟨_, w⟩
  · exact absurd w.tflag ht
  · exact absurd w.tflag ht
  · exact absurd w.tflag ht
  · exact ⟨hd, w.errcode⟩
  · exact absurd w.tflag ht

theorem Ends.readB_kept {i : Instr} {r : BReg} (h : Ends i s t) (hd : destB i ≠ some r) : t.readB r = s.readB r :=
  by_contra fun hr => hd (h.readB_changed hr).1

theorem Ends.readP_kept {i : Instr} {r : PReg} (h : Ends i s t) (hd : destP i ≠ some r) : t.readP r = s.readP r :=
  by_contra fun hr => hd (h.readP_changed hr).1

/-- The commands whose destination is T (R15). -/
theorem writesT_cases {i : Instr} (h : writesT i = true) :
    (∃ pa, i = .pchk pa) ∨ (∃ ba bp, i = .qrt ba bp) ∨ (∃ bs bh bn, i = .rvfy bs bh bn) := by
  cases i with
  | pchk pa => exact .inl ⟨pa, rfl⟩
  | qrt ba bp => exact .inr (.inl ⟨ba, bp, rfl⟩)
  | rvfy bs bh bn => exact .inr (.inr ⟨bs, bh, bn, rfl⟩)
  | _ => cases h

/-- What a fault keeps, the engine's turn changes only by completing a decoded command (spec/20_memory.md R50). -/
theorem engineTurn_changed {α : Type} (f : State → α) (hf : ∀ c, Faulted s t c → f t = f s)
    (h : engineTurn s = .next t) (hne : f t ≠ f s) :
    s.busy = true ∧ ∃ i, decode s.cmdreg = .ok i ∧ Ends i s t := by
  obtain ⟨t', ht', hcases⟩ := engineTurn_cases s
  cases h.symm.trans ht'
  rcases hcases with ⟨-, rfl⟩ | ⟨hb, i, hd, -, he⟩ | ⟨-, -, w⟩
  · exact absurd rfl hne
  · exact ⟨hb, i, hd, he⟩
  · exact absurd (hf _ w) hne

/-! ## What a host's access can have changed (spec/20_memory.md R41, R42, R48) -/

@[simp] theorem readB_busRead (s : State) (a : WordAddr) (r : BReg) : (s.busRead a).readB r = s.readB r := by
  rcases busRead_cases s a with ⟨-, he⟩ | ⟨-, he⟩ <;> rw [he] <;> rfl

@[simp] theorem readP_busRead (s : State) (a : WordAddr) (r : PReg) : (s.busRead a).readP r = s.readP r := by
  rcases busRead_cases s a with ⟨-, he⟩ | ⟨-, he⟩ <;> rw [he] <;> rfl

@[simp] theorem tflag_busRead (s : State) (a : WordAddr) : (s.busRead a).tflag = s.tflag := by
  rcases busRead_cases s a with ⟨-, he⟩ | ⟨-, he⟩ <;> rw [he]

/-- A write to CMD changes no data register (R49). -/
@[simp] theorem readB_offer (s : State) (v : Word) (r : BReg) : (s.offer v).readB r = s.readB r := by
  unfold State.offer; split <;> rfl

@[simp] theorem readP_offer (s : State) (v : Word) (r : PReg) : (s.offer v).readP r = s.readP r := by
  unfold State.offer; split <;> rfl

@[simp] theorem tflag_offer (s : State) (v : Word) : (s.offer v).tflag = s.tflag := by
  unfold State.offer; split <;> rfl

/-- The big-integer register of which the word shows a limb. -/
def MapWord.integer? : MapWord → Option BReg
  | .b i _ => some i
  | _ => none

/-- The point register of which the word shows a limb or the `inf` bit. -/
def MapWord.point? : MapWord → Option PReg
  | .px i _ => some i
  | .py i _ => some i
  | .pinf i => some i
  | _ => none

/-- The word shows a part of a data register. -/
def MapWord.ofRegister (w : MapWord) : Bool := w.integer?.isSome || w.point?.isSome

/-- A word's write changes only the big-integer register that the word belongs to. -/
theorem writeWord_readB_changed {w : MapWord} {v : Word} {r : BReg} (h : (s.writeWord w v).readB r ≠ s.readB r) :
    w.integer? = some r := by
  cases w with
  | cmd => exact absurd (readB_offer s v r) h
  | status => exact absurd (State.readB_writeStatus s v r) h
  | b i j => exact congrArg some (by_contra fun hne => h (by simp [State.writeWord, hne]))
  | _ => exact absurd rfl h

/-- A word's write changes only the point register that the word belongs to. -/
theorem writeWord_readP_changed {w : MapWord} {v : Word} {r : PReg} (h : (s.writeWord w v).readP r ≠ s.readP r) :
    w.point? = some r := by
  have own {i : PReg} {q : Point} (hq : (s.writeP i q).readP r ≠ s.readP r) : some i = some r :=
    congrArg some (by_contra fun hne => hq (by simp [hne]))
  cases w with
  | cmd => exact absurd (readP_offer s v r) h
  | status => exact absurd (State.readP_writeStatus s v r) h
  | px i j => exact own h
  | py i j => exact own h
  | pinf i => exact own h
  | _ => exact absurd rfl h

@[simp] theorem tflag_writeWord (s : State) (w : MapWord) (v : Word) : (s.writeWord w v).tflag = s.tflag := by
  cases w with
  | cmd => exact tflag_offer s v
  | status => exact State.writeStatus_tflag s v
  | _ => rfl

@[simp] theorem tflag_busWrite (s : State) (a : WordAddr) (v : Word) : (s.busWrite a v).tflag = s.tflag := by
  rcases busWrite_cases s a v with ⟨-, he⟩ | ⟨-, he⟩ <;> rw [he]
  exact tflag_writeWord s _ v

/-- The words of the data registers lie in the data region (R43). -/
theorem dataRegion_of_ofRegister {W off : Nat} (h : (mapWord W off).ofRegister = true) : dataRegion off = true := by
  by_contra hd
  have hw : mapWord W off = controlWord off := if_neg hd
  rw [hw] at h
  unfold controlWord at h
  split at h
  · split at h <;> cases h
  · split at h <;> cases h

/-- An unlocked access to a word of a data register is made while BUSY = 0 (R48), at an offset of the data region. -/
theorem unlocked_register {a : WordAddr} (hl : s.locked a = false)
    (hw : (mapWord s.cfg.W a.offset).ofRegister = true) : s.busy = false ∧ 0x0200 ≤ a.offset := by
  have hd := dataRegion_of_ofRegister hw
  exact ⟨by simpa [State.locked, hd] using hl, by simpa [dataRegion] using hd⟩

/-- A host write changes a big-integer register only at one of its own words, while BUSY = 0 (R42, R48). -/
theorem busWrite_readB_changed {a : WordAddr} {v : Word} {r : BReg} (hL : s.cfg.Legal)
    (hr : (s.busWrite a v).readB r ≠ s.readB r) :
    s.busy = false ∧ ∃ j, a.offset = bOffset s.cfg.W r j ∧ j < s.cfg.W / 32 := by
  obtain ⟨hmod, hmin, -⟩ := hL
  rcases busWrite_cases s a v with ⟨-, he⟩ | ⟨hl, he⟩ <;> rw [he] at hr
  · exact absurd rfl hr
  · have hw := writeWord_readB_changed hr
    obtain ⟨hb, hd⟩ := unlocked_register hl (by simp [MapWord.ofRegister, hw])
    refine ⟨hb, ?_⟩
    rcases dataWord_cases hmod (by omega) (offset_mod a) hd with
      ⟨_, _, hm, -⟩ | ⟨_, _, hm, -⟩ | ⟨_, hm, -⟩ | ⟨i, j, hm, ho⟩ | hm <;> rw [hm] at hw <;> cases hw
    exact ⟨j, ho⟩

/-- A host write changes a point register only at one of its own words, while BUSY = 0 (R42, R48). -/
theorem busWrite_readP_changed {a : WordAddr} {v : Word} {r : PReg} (hL : s.cfg.Legal)
    (hr : (s.busWrite a v).readP r ≠ s.readP r) :
    s.busy = false ∧ 0x0200 + 0x80 * r.val ≤ a.offset ∧ a.offset < 0x0244 + 0x80 * r.val := by
  obtain ⟨hmod, hmin, -⟩ := hL
  rcases busWrite_cases s a v with ⟨-, he⟩ | ⟨hl, he⟩ <;> rw [he] at hr
  · exact absurd rfl hr
  · have hw := writeWord_readP_changed hr
    obtain ⟨hb, hd⟩ := unlocked_register hl (by simp [MapWord.ofRegister, hw])
    refine ⟨hb, ?_⟩
    rcases dataWord_cases hmod (by omega) (offset_mod a) hd with
      ⟨i, j, hm, ho, hj⟩ | ⟨i, j, hm, ho, hj⟩ | ⟨i, hm, ho⟩ | ⟨_, _, hm, -⟩ | hm <;> rw [hm] at hw <;> cases hw
    · unfold pxOffset at ho; omega
    · unfold pyOffset at ho; omega
    · unfold pinfOffset at ho; omega

/-! ## What a step can have changed -/

/-- What the list of host actions does not show, and what a fault and a host read keep, a step changes only by reset, by
a host write, or by completing the pending command. -/
theorem step_changed {α : Type} (f : State → α) (hbus : ∀ rest, f { s with bus := rest } = f s)
    (hread : ∀ u a, f (State.busRead u a) = f u) (hfault : ∀ u c, Faulted u t c → f t = f u)
    (h : step s = .next t) (hne : f t ≠ f s) :
    (∃ rest, s.bus = .reset :: rest) ∨
    (∃ a v rest, s.bus = .write a v :: rest ∧ t = State.busWrite { s with bus := rest } a v) ∨
    (s.busy = true ∧ ∃ i acts, decode s.cmdreg = .ok i ∧ Ends i { s with bus := acts } t) := by
  obtain ⟨t', ht', hcases⟩ := step_cases s
  cases h.symm.trans ht'
  rcases hcases with ⟨-, he⟩ | ⟨rest, -, he⟩ | ⟨a, rest, -, rfl⟩ | ⟨a, v, rest, hw, rfl⟩ | ⟨rest, hr, -⟩
  · obtain ⟨hb, i, hd, hends⟩ := engineTurn_changed f (hfault s) he hne
    exact .inr (.inr ⟨hb, i, s.bus, hd, hends⟩)
  · obtain ⟨hb, i, hd, hends⟩ := engineTurn_changed f (hfault _) he (hbus rest ▸ hne)
    exact .inr (.inr ⟨hb, i, rest, hd, hends⟩)
  · exact absurd ((hread _ a).trans (hbus rest)) hne
  · exact .inr (.inl ⟨a, v, rest, hw, rfl⟩)
  · exact .inl ⟨rest, hr⟩

/-! ## Accesses to the control region: no lock, any time (R46, R48) -/

theorem unlocked_control (s : State) {off : Nat} (h4 : off % 4 = 0) (hc : off < 0x0200) :
    s.locked (wordAddr off) = false := by
  have hd : dataRegion off = false := by simpa [dataRegion] using hc
  simp [State.locked, offset_wordAddr h4 (by omega : off < 0x4000), hd]

theorem step_read_control {off : Nat} {rest : List HostAction} (h4 : off % 4 = 0) (hc : off < 0x0200)
    (h : s.bus = .read (wordAddr off) :: rest) :
    step s = .next { s with rdata := s.wordValue (mapWord s.cfg.W off), bus := rest } := by
  rw [step_read h, State.busRead, unlocked_control _ h4 hc, State.peek, offset_wordAddr h4 (by omega)]
  rfl

theorem step_write_control {off : Nat} {v : Word} {rest : List HostAction} (h4 : off % 4 = 0) (hc : off < 0x0200)
    (h : s.bus = .write (wordAddr off) v :: rest) :
    step s = .next (State.writeWord { s with bus := rest } (mapWord s.cfg.W off) v) := by
  rw [step_write h, State.busWrite, unlocked_control _ h4 hc, offset_wordAddr h4 (by omega)]
  rfl

/-! ## The statements of spec/10_state.md -/

/-- Settles O10: the word is a limb or the INF word of a register that is not the destination, or reserved. -/
theorem commandLeavesOtherWords : Obligations.CommandLeavesOtherWords := by
  unfold Obligations.CommandLeavesOtherWords
  intro i s t a hL hx hd hB hP
  have he := exec_ends i hx
  have keepP {r : PReg} (h : 0x0200 + 0x80 * r.val ≤ a.offset ∧ a.offset < 0x0200 + 0x80 * (r.val + 1)) :
      t.readP r = s.readP r := he.readP_kept fun hdest => hP r hdest h
  have h2 := hL.2.1
  unfold State.peek
  rw [he.cfg]
  rcases dataWord_cases hL.1 (by omega) (offset_mod a) hd with
    ⟨r, j, hm, ho, hj⟩ | ⟨r, j, hm, ho, hj⟩ | ⟨r, hm, ho⟩ | ⟨r, j, hm, ho, hj⟩ | hm <;>
    rw [hm] <;> simp only [State.wordValue]
  · rw [keepP (by unfold pxOffset at ho; omega)]
  · rw [keepP (by unfold pyOffset at ho; omega)]
  · rw [keepP (by unfold pinfOffset at ho; omega)]
  · obtain ⟨hlo, hhi, -⟩ := bOffset_lt hL.1 r hj
    rw [he.readB_kept fun hdest => hB r hdest (ho ▸ ⟨hlo, hhi⟩)]

/-- Settles O52: no host write changes T, and a command that changes it has it as its destination. -/
theorem onlyPredicatesWriteT : Obligations.OnlyPredicatesWriteT := by
  unfold Obligations.OnlyPredicatesWriteT
  intro s t h ht
  rcases step_changed (·.tflag) (fun _ => rfl) tflag_busRead (fun _ _ w => w.tflag) h ht with
    hreset | ⟨a, v, rest, -, rfl⟩ | ⟨hb, i, acts, hd, he⟩
  · exact .inl hreset
  · exact absurd (tflag_busWrite _ a v) ht
  · obtain ⟨hdest, hcode⟩ := he.tflag_changed ht
    exact .inr ⟨hb, he.bus_busy.2, hcode, i, hd, writesT_cases hdest⟩

/-- Settles O53: for each kind of register, the write that changes it is to one of its words, and the command that
changes it has it as its destination. -/
theorem registersChangeOnlyAsNamed : Obligations.RegistersChangeOnlyAsNamed := by
  unfold Obligations.RegistersChangeOnlyAsNamed
  intro s t hL h
  refine ⟨fun r hr => ?_, fun r hr => ?_⟩
  · rcases step_changed (·.readB r) (fun _ => rfl) (readB_busRead · · r) (fun _ _ w => w.b r) h hr with
      hreset | ⟨a, v, rest, hbus, rfl⟩ | ⟨hb, i, acts, hd, he⟩
    · exact .inl hreset
    · obtain ⟨hb, j, ho, hj⟩ := busWrite_readB_changed (s := { s with bus := rest }) hL hr
      obtain ⟨hlo, hhi, -⟩ := bOffset_lt hL.1 r hj
      exact .inr (.inl ⟨hb, a, v, rest, hbus, ho ▸ hlo, ho ▸ hhi⟩)
    · obtain ⟨hdest, hcode⟩ := he.readB_changed hr
      exact .inr (.inr ⟨hb, hcode, i, hd, hdest⟩)
  · rcases step_changed (·.readP r) (fun _ => rfl) (readP_busRead · · r) (fun _ _ w => w.p r) h hr with
      hreset | ⟨a, v, rest, hbus, rfl⟩ | ⟨hb, i, acts, hd, he⟩
    · exact .inl hreset
    · obtain ⟨hb, ho⟩ := busWrite_readP_changed (s := { s with bus := rest }) hL hr
      exact .inr (.inl ⟨hb, a, v, rest, hbus, ho⟩)
    · obtain ⟨hdest, hcode⟩ := he.readP_changed hr
      exact .inr (.inr ⟨hb, hcode, i, hd, hdest⟩)

/-! ### The constant words (R21, R22) -/

/-- The word at the control offset `off` is the constant `c` in every state of the configuration `cfg`, and a write to
it is ignored. -/
structure ConstantWord (cfg : Config) (off : Nat) (c : Word) : Prop where
  aligned : off % 4 = 0
  control : off < 0x0200
  value : ∀ s : State, s.cfg = cfg → s.wordValue (mapWord cfg.W off) = c
  ignored : ∀ (s : State) (v : Word), s.writeWord (mapWord cfg.W off) v = s

/-- Limb `j` of the curve constant numbered `k` (R22). -/
theorem constantWord_curve (cfg : Config) {k j : Nat} (hk : k < 6) (hj : j < 8) :
    ConstantWord cfg (0x0100 + 0x20 * k + 4 * j) (limb ((constant? k).getD 0) j) where
  aligned := by omega
  control := by omega
  value s _ := by rw [mapWord_curve _ hk hj]; rfl
  ignored s v := by rw [mapWord_curve _ hk hj]; rfl

theorem constantWord_id (cfg : Config) : ConstantWord cfg 0x0000 0x45434D31 :=
  ⟨by decide, by decide, fun _ _ => rfl, fun _ _ => rfl⟩

theorem constantWord_paramW (cfg : Config) : ConstantWord cfg 0x0018 (BitVec.ofNat 32 cfg.W) :=
  ⟨by decide, by decide, fun _ h => h ▸ rfl, fun _ _ => rfl⟩

theorem constantWord_paramCfg (cfg : Config) : ConstantWord cfg 0x001C 0x01000408 :=
  ⟨by decide, by decide, fun _ _ => rfl, fun _ _ => rfl⟩

/-- Settles O44: each of the 51 words is a `ConstantWord`, which lies in the control region and so is never locked. -/
theorem constantWordsNeverChange : Obligations.ConstantWordsNeverChange := by
  unfold Obligations.ConstantWordsNeverChange
  intro s off c rest hmem
  have hc : ConstantWord s.cfg off c := by
    simp only [List.mem_append, List.mem_cons, List.mem_map, List.mem_range, List.not_mem_nil, or_false,
      Prod.mk.injEq] at hmem
    rcases hmem with ((((((⟨rfl, rfl⟩ | ⟨rfl, rfl⟩ | ⟨rfl, rfl⟩) | ⟨j, hj, rfl, rfl⟩) | ⟨j, hj, rfl, rfl⟩) |
      ⟨j, hj, rfl, rfl⟩) | ⟨j, hj, rfl, rfl⟩) | ⟨j, hj, rfl, rfl⟩) | ⟨j, hj, rfl, rfl⟩
    · exact constantWord_id s.cfg
    · exact constantWord_paramW s.cfg
    · exact constantWord_paramCfg s.cfg
    · exact constantWord_curve s.cfg (k := 0) (by decide) hj
    · exact constantWord_curve s.cfg (k := 1) (by decide) hj
    · exact constantWord_curve s.cfg (k := 2) (by decide) hj
    · exact constantWord_curve s.cfg (k := 3) (by decide) hj
    · exact constantWord_curve s.cfg (k := 4) (by decide) hj
    · exact constantWord_curve s.cfg (k := 5) (by decide) hj
  refine ⟨fun h => ?_, fun v h => ?_⟩
  · rw [step_read_control hc.aligned hc.control h, hc.value s rfl]
  · rw [step_write_control hc.aligned hc.control h, hc.ignored]

/-! ### The interrupt output and reset (R24, R25) -/

theorem irq_iff (s : State) : s.irq = true ↔ (s.done = true ∧ s.ieDone = true) ∨ (s.err = true ∧ s.ieErr = true) := by
  simp [State.irq]

/-- Settles O41: bits 1 and 2 of the STATUS write clear DONE and ERR, and a CTRL write of 0 clears both enables. -/
theorem irqIsTheEnabledOr : Obligations.IrqIsTheEnabledOr := by
  refine ⟨irq_iff, fun s rest h => ⟨_, step_write_control (by decide) (by decide) h, ?_⟩,
    fun s rest h => ⟨_, step_write_control (by decide) (by decide) h, ?_⟩⟩
  · change (State.writeStatus { s with bus := rest } 6).irq = false
    simp [State.irq]
  · change (State.writeCtrl { s with bus := rest } 0).irq = false
    simp [State.irq]

/-- Settles O42: the registers by the laws of `State.initial`, the flags and words by its fields. -/
theorem resetStateIsAsTabled : Obligations.ResetStateIsAsTabled :=
  ⟨State.readB_initial _ _, State.readP_initial _ _, rfl, rfl, rfl, rfl, rfl, rfl, rfl, rfl, rfl, rfl, rfl, rfl, rfl⟩

end Sys2Proof.Machine

/-! SUPPORT. Proofs of the statements of spec/20_memory.md: the engine's step, the writes to CMD and CTRL, what each
word of the register map shows, the data-region lock, and the frame of a host write. -/

namespace Sys2Proof.Machine

variable {s : State}

/-! ## The engine's step (R50) -/

/-- Settles O9: exec answers a next state (`exec_next`), which ends as the command's row allows (`exec_ends`). -/
theorem everyCommandEndsOnce : Obligations.EveryCommandEndsOnce := by
  unfold Obligations.EveryCommandEndsOnce
  intro i s
  obtain ⟨t, ht⟩ := exec_next i s
  exact ⟨t, ht, exec_ends i ht⟩

/-- With no host action left the engine has its turn. -/
theorem step_nil (h : s.bus = []) : step s = engineTurn s := by
  simp [step, h]

theorem step_pause {rest : List HostAction} (h : s.bus = .pause :: rest) :
    step s = engineTurn { s with bus := rest } := by
  simp [step, h, hostTurn]

theorem engineTurn_of_decode {i : Instr} (hb : s.busy = true) (hd : decode s.cmdreg = .ok i) :
    engineTurn s = exec i s := by
  simp [engineTurn, completeCommand, hb, hd]

theorem engineTurn_of_idle (hb : s.busy = false) : engineTurn s = .next s := by
  simp [engineTurn, hb]

/-- Cutting a number to 32 bits first leaves its 32-bit word as it is (R60). -/
theorem wordOfNat_mod (w : Nat) : BitVec.ofNat 32 (w % 2 ^ 32) = BitVec.ofNat 32 w := by
  apply BitVec.eq_of_toNat_eq
  rw [BitVec.toNat_ofNat, BitVec.toNat_ofNat, Nat.mod_mod]

theorem decode_of_decodeTableWord {w : Nat} {i : Instr} (h : decodeTableWord 32 w = some i) :
    decode (BitVec.ofNat 32 w) = .ok i := by
  unfold decodeTableWord at h
  rw [if_pos le_rfl, wordOfNat_mod] at h
  cases hd : decode (BitVec.ofNat 32 w) with
  | ok j => rw [hd] at h; cases h; rfl
  | error e => rw [hd] at h; cases h

/-- A word put in place by `withFetchWord` is completed in the very next step. -/
theorem step_withFetchWord (s : State) (w : Nat) :
    step (s.withFetchWord 32 w) = engineTurn (s.accept (BitVec.ofNat 32 w)) := by
  unfold State.withFetchWord
  rw [wordOfNat_mod]
  exact step_pause rfl

/-- Settles O6: at either of the engine's turns the step is the completion of the decoded command. -/
theorem stepRunsDecodedCommand : Obligations.StepRunsDecodedCommand := by
  unfold Obligations.StepRunsDecodedCommand
  refine ⟨fun s i hb hd => ⟨fun h => ?_, fun rest h => ?_⟩, fun s w i h => ?_⟩
  · rw [step_nil h, engineTurn_of_decode hb hd]
  · rw [step_pause h]; exact engineTurn_of_decode hb hd
  · rw [step_withFetchWord]; exact engineTurn_of_decode rfl (decode_of_decodeTableWord h)

/-- Settles O8: the idle engine's turn answers the same state. -/
theorem idleEngineChangesNothing : Obligations.IdleEngineChangesNothing := by
  unfold Obligations.IdleEngineChangesNothing
  refine fun s hb => ⟨fun h => ?_, fun rest h => ?_⟩
  · rw [step_nil h, engineTurn_of_idle hb]
  · rw [step_pause h]; exact engineTurn_of_idle hb

/-! ## Writes to CMD and CTRL (R49, R55) -/

theorem offer_of_ready (v : Word) (hb : s.busy = false) (he : s.err = false) : s.offer v = s.accept v := by
  simp [State.offer, hb, he]

theorem offer_of_busy_or_err (v : Word) (h : s.busy = true ∨ s.err = true) : s.offer v = s.dropWrite := by
  simp [State.offer, h]

theorem step_write_cmd {v : Word} {rest : List HostAction} (h : s.bus = .write (wordAddr 0x0004) v :: rest) :
    step s = .next (State.offer { s with bus := rest } v) :=
  step_write_control (by decide) (by decide) h

theorem step_write_ctrl {v : Word} {rest : List HostAction} (h : s.bus = .write (wordAddr 0x000C) v :: rest) :
    step s = .next (State.writeCtrl { s with bus := rest } v) :=
  step_write_control (by decide) (by decide) h

/-- Settles O38: the CMD write is the offer, accepted in one case and dropped in the other. -/
theorem commandWriteIsAcceptedOrDropped : Obligations.CommandWriteIsAcceptedOrDropped := by
  unfold Obligations.CommandWriteIsAcceptedOrDropped
  intro s v rest h
  rw [step_write_cmd h]
  refine ⟨fun hb he => ?_, fun hd => ?_⟩
  · rw [offer_of_ready (s := { s with bus := rest }) v hb he]; rfl
  · rw [offer_of_busy_or_err (s := { s with bus := rest }) v hd]; rfl

/-! ## The words of flags, bit by bit (spec/10_state.md R16, R17, R19) -/

theorem flagBit_toNat_zero (v : Bool) : (flagBit v 0).toNat = v.toNat := by
  cases v <;> rfl

/-- A flag's word has one bit that can be set, the flag's own. -/
theorem flagBit_getLsbD (v : Bool) {n : Nat} (hn : n < 32) (k : Nat) :
    (flagBit v n).getLsbD k = (v && decide (k = n)) := by
  cases v with
  | false => simp [flagBit]
  | true =>
    have hone : flagBit true n = BitVec.twoPow 32 n := by
      apply BitVec.eq_of_toNat_eq
      simp [flagBit, BitVec.toNat_twoPow]
    rw [hone, BitVec.getLsbD_twoPow]
    simp [hn, eq_comm]

theorem ctrlWord_getLsbD (s : State) (k : Nat) : s.ctrlWord.getLsbD k = [s.ieDone, s.ieErr].getD k false := by
  simp only [State.ctrlWord, BitVec.getLsbD_or, flagBit_getLsbD _ (by decide : 0 < 32),
    flagBit_getLsbD _ (by decide : 1 < 32)]
  match k with
  | 0 => simp
  | 1 => simp
  | k + 2 => simp

theorem statusWord_getLsbD (s : State) (k : Nat) :
    s.statusWord.getLsbD k = [s.busy, s.done, s.err, s.tflag, s.drop, s.accv].getD k false := by
  have bit (v : Bool) (n : Nat) (hn : n < 6) := flagBit_getLsbD v (by omega : n < 32) k
  simp only [State.statusWord, BitVec.getLsbD_or]
  rw [bit _ 0 (by decide), bit _ 1 (by decide), bit _ 2 (by decide), bit _ 3 (by decide), bit _ 4 (by decide),
    bit _ 5 (by decide)]
  match k with
  | 0 => simp
  | 1 => simp
  | 2 => simp
  | 3 => simp
  | 4 => simp
  | 5 => simp
  | k + 6 => simp

/-- What CTRL reads after a write of `v`: its two enables and zero above (R17, R55). -/
theorem ctrlWord_writeCtrl (s : State) (v : Word) : (s.writeCtrl v).ctrlWord = v &&& 3 := by
  apply BitVec.eq_of_getLsbD_eq
  intro k hk
  rw [ctrlWord_getLsbD, BitVec.getLsbD_and]
  match k with
  | 0 => simp
  | 1 => simp
  | k + 2 =>
    have h3 : (3#32).getLsbD (k + 2) = false := by simp [BitVec.getLsbD_ofNat, Nat.testBit_add_one]
    simp [h3]

theorem errcodeWord_toNat (s : State) :
    s.errcodeWord.toNat = (match s.errcode with | none => 0 | some c => c.code.toNat) := by
  unfold State.errcodeWord
  cases s.errcode with
  | none => rfl
  | some c => cases c <;> rfl

/-- Settles O40: the step is `writeCtrl`, and the word at 0x000C is CTRL. -/
theorem ctrlWriteSetsEnables : Obligations.CtrlWriteSetsEnables := by
  unfold Obligations.CtrlWriteSetsEnables
  exact fun s v rest h => ⟨_, step_write_ctrl h, rfl, ctrlWord_writeCtrl _ v⟩

/-! ## What each word of the map shows (R43, R44) -/

theorem peek_wordAddr (s : State) {off : Nat} {w : MapWord} (h4 : off % 4 = 0) (hlt : off < 0x4000)
    (hw : mapWord s.cfg.W off = w) : s.peek (wordAddr off) = s.wordValue w := by
  rw [State.peek, offset_wordAddr h4 hlt, hw]

/-- The offsets of the point registers' words are word offsets inside the map. -/
theorem pointOffsets_inside (i : PReg) {j : Nat} (hj : j < 8) :
    (pxOffset i j % 4 = 0 ∧ pxOffset i j < 0x4000) ∧ (pyOffset i j % 4 = 0 ∧ pyOffset i j < 0x4000) ∧
      pinfOffset i % 4 = 0 ∧ pinfOffset i < 0x4000 := by
  unfold pxOffset pyOffset pinfOffset
  omega

/-- So are those of the big integers', for every legal `W`. -/
theorem bOffset_inside {c : Config} (hL : c.Legal) (i : BReg) {j : Nat} (hj : j < c.W / 32) :
    bOffset c.W i j % 4 = 0 ∧ bOffset c.W i j < 0x4000 := by
  have htop := bOffset_top hL i hj
  have hmax := hL.2.2
  exact ⟨(bOffset_lt hL.1 i hj).2.2, by omega⟩

theorem peek_px (s : State) (i : PReg) {j : Nat} (hj : j < 8) :
    s.peek (wordAddr (pxOffset i j)) = limb (s.readP i).x.toNat j :=
  have ⟨h4, hlt⟩ := (pointOffsets_inside i hj).1
  peek_wordAddr s h4 hlt (mapWord_pxOffset _ i hj)

theorem peek_py (s : State) (i : PReg) {j : Nat} (hj : j < 8) :
    s.peek (wordAddr (pyOffset i j)) = limb (s.readP i).y.toNat j :=
  have ⟨h4, hlt⟩ := (pointOffsets_inside i hj).2.1
  peek_wordAddr s h4 hlt (mapWord_pyOffset _ i hj)

theorem peek_pinf (s : State) (i : PReg) : s.peek (wordAddr (pinfOffset i)) = flagBit (s.readP i).inf 0 :=
  have ⟨h4, hlt⟩ := (pointOffsets_inside i (by decide : 0 < 8)).2.2
  peek_wordAddr s h4 hlt (mapWord_pinfOffset _ i)

theorem peek_b (hL : s.cfg.Legal) (i : BReg) {j : Nat} (hj : j < s.cfg.W / 32) :
    s.peek (wordAddr (bOffset s.cfg.W i j)) = limb (s.readB i) j :=
  have ⟨h4, hlt⟩ := bOffset_inside hL i hj
  peek_wordAddr s h4 hlt (mapWord_bOffset hL.1 i hj)

/-- Settles O46: the word at each offset, then its bits or its number. -/
theorem registerMapShowsEveryRegister : Obligations.RegisterMapShowsEveryRegister := by
  unfold Obligations.RegisterMapShowsEveryRegister
  intro s hL
  refine ⟨rfl, statusWord_getLsbD s, ctrlWord_getLsbD s, errcodeWord_toNat s, rfl, fun i j hj => ⟨?_, ?_⟩,
    fun i => ?_, fun i j hj => ?_⟩
  · exact (congrArg BitVec.toNat (peek_px s i hj)).trans (limb_toNat _ _)
  · exact (congrArg BitVec.toNat (peek_py s i hj)).trans (limb_toNat _ _)
  · exact (congrArg BitVec.toNat (peek_pinf s i)).trans (flagBit_toNat_zero _)
  · exact (congrArg BitVec.toNat (peek_b hL i hj)).trans (limb_toNat _ _)

/-! ## The lock (R41, R42, R47, R48) -/

section Access

variable {a : WordAddr} {v : Word} {rest : List HostAction}

theorem locked_iff (s : State) (a : WordAddr) : s.locked a = true ↔ s.busy = true ∧ 0x0200 ≤ a.offset := by
  simp [State.locked, dataRegion]

theorem unlocked_iff (s : State) (a : WordAddr) : s.locked a = false ↔ s.busy = false ∨ a.offset < 0x0200 := by
  simp [State.locked, dataRegion, imp_iff_not_or]

theorem step_read_locked (hl : s.locked a = true) (h : s.bus = .read a :: rest) :
    step s = .next { s with rdata := 0, accv := true, bus := rest } := by
  rw [step_read h]; exact congrArg _ (if_pos hl)

theorem step_read_unlocked (hl : s.locked a = false) (h : s.bus = .read a :: rest) :
    step s = .next { s with rdata := s.peek a, bus := rest } := by
  rw [step_read h]; exact congrArg _ (if_neg (ne_true_of_eq_false hl))

theorem step_write_locked (hl : s.locked a = true) (h : s.bus = .write a v :: rest) :
    step s = .next { s with accv := true, bus := rest } := by
  rw [step_write h]; exact congrArg _ (if_pos hl)

theorem step_write_unlocked (hl : s.locked a = false) (h : s.bus = .write a v :: rest) :
    step s = .next (State.writeWord { s with bus := rest } (mapWord s.cfg.W a.offset) v) := by
  rw [step_write h]; exact congrArg _ (if_neg (ne_true_of_eq_false hl))

end Access

/-- Settles O45: the read is locked in the one case and not in the other. -/
theorem readReturnsTheWord : Obligations.ReadReturnsTheWord := by
  unfold Obligations.ReadReturnsTheWord
  intro s a rest h
  refine ⟨fun hb hd => ?_, fun hu => ?_⟩
  · exact step_read_locked ((locked_iff s a).2 ⟨hb, hd⟩) h
  · exact step_read_unlocked ((unlocked_iff s a).2 hu) h

/-- Settles O48: while BUSY = 1 exactly the data region is locked. -/
theorem dataRegionIsLockedWhileBusy : Obligations.DataRegionIsLockedWhileBusy := by
  unfold Obligations.DataRegionIsLockedWhileBusy
  intro s a rest hb
  refine ⟨fun hd h => ?_, fun v hd h => ?_, fun hc h => ?_⟩
  · exact step_read_locked ((locked_iff s a).2 ⟨hb, hd⟩) h
  · exact step_write_locked ((locked_iff s a).2 ⟨hb, hd⟩) h
  · exact step_read_unlocked ((unlocked_iff s a).2 (.inr hc)) h

/-- Settles O47: a reserved word reads 0 and takes no write; the lock adds ACCV and nothing else. -/
theorem reservedWordsReadZero : Obligations.ReservedWordsReadZero := by
  unfold Obligations.ReservedWordsReadZero
  intro s a rest hL hres
  have hmin := hL.2.1
  have hw : mapWord s.cfg.W a.offset = .reserved := mapWord_reserved hL.1 (by omega) hres
  have hpeek : s.peek a = 0 := by rw [State.peek, hw]; rfl
  change (_ → step s = .next { s with rdata := 0, accv := s.accv || s.locked a, bus := rest }) ∧
    ∀ v, _ → step s = .next { s with accv := s.accv || s.locked a, bus := rest }
  cases hl : s.locked a with
  | true =>
    rw [Bool.or_true]
    exact ⟨step_read_locked hl, fun v => step_write_locked hl⟩
  | false =>
    rw [Bool.or_false]
    refine ⟨fun h => ?_, fun v h => ?_⟩
    · rw [step_read_unlocked hl h, hpeek]
    · rw [step_write_unlocked hl h, hw]; rfl

/-! ## A host write to a data word (R42, R44) -/

/-- While BUSY = 0 a write to the word `w` of the map is that word's own write. -/
theorem step_write_idle {off : Nat} {w : MapWord} {v : Word} {rest : List HostAction} (hb : s.busy = false)
    (hin : off % 4 = 0 ∧ off < 0x4000) (hw : mapWord s.cfg.W off = w) (h : s.bus = .write (wordAddr off) v :: rest) :
    step s = .next (State.writeWord { s with bus := rest } w v) := by
  rw [step_write_unlocked ((unlocked_iff s _).2 (.inl hb)) h, offset_wordAddr hin.1 hin.2, hw]

theorem limb_setCoordLimb_same (c : Coord) {j : Nat} (v : Word) (hj : j < 8) :
    limb (setCoordLimb c j v).toNat j = v := by
  rw [setCoordLimb_toNat c j v hj, limb_setLimb_same]

theorem limb_setCoordLimb_ne (c : Coord) {j k : Nat} (v : Word) (hj : j < 8) (hk : k ≠ j) :
    limb (setCoordLimb c j v).toNat k = limb c.toNat k := by
  rw [setCoordLimb_toNat c j v hj, limb_setLimb_ne _ _ _ _ hk]

/-- Settles O49: the step is the write of the word at the offset, whose limbs the limb laws give. -/
theorem limbWriteReplacesThatLimb : Obligations.LimbWriteReplacesThatLimb := by
  unfold Obligations.LimbWriteReplacesThatLimb
  intro s v rest hL hb
  refine ⟨fun i j hj h => ?_, fun i j hj h => ?_, fun i j hj h => ?_, fun i h => ?_⟩
  · exact ⟨setLimb (s.readB i) j v, step_write_idle hb (bOffset_inside hL i hj) (mapWord_bOffset hL.1 i hj) h,
      limb_setLimb_same _ _ _, fun k => limb_setLimb_ne _ _ _ _⟩
  · exact ⟨setCoordLimb (s.readP i).x j v,
      step_write_idle hb (pointOffsets_inside i hj).1 (mapWord_pxOffset _ i hj) h,
      limb_setCoordLimb_same _ _ hj, fun k => limb_setCoordLimb_ne _ _ hj⟩
  · exact ⟨setCoordLimb (s.readP i).y j v,
      step_write_idle hb (pointOffsets_inside i hj).2.1 (mapWord_pyOffset _ i hj) h,
      limb_setCoordLimb_same _ _ hj, fun k => limb_setCoordLimb_ne _ _ hj⟩
  · exact step_write_idle hb (pointOffsets_inside i (by decide : 0 < 8)).2.2 (mapWord_pinfOffset _ i) h

/-! ### The frame of a data write -/

/-- A write of `n` to `b<i>` shows only in the limbs of `b<i>` in which `n` differs from the old value. -/
theorem wordValue_writeB {i : BReg} {n : Nat} {w : MapWord}
    (hn : ∀ k, w = .b i k → limb n k = limb (s.readB i) k) : (s.writeB i n).wordValue w = s.wordValue w := by
  cases w with
  | b i' k =>
    by_cases hi : i = i'
    · subst hi
      simpa [State.wordValue] using hn k rfl
    · simp [State.wordValue, hi]
  | _ => rfl

/-- A write of `q` to `p<i>` shows only in the words of `p<i>` in which `q` differs from the old value. -/
theorem wordValue_writeP {i : PReg} {q : Point} {w : MapWord}
    (hx : ∀ k, w = .px i k → limb q.x.toNat k = limb (s.readP i).x.toNat k)
    (hy : ∀ k, w = .py i k → limb q.y.toNat k = limb (s.readP i).y.toNat k)
    (hinf : w = .pinf i → q.inf = (s.readP i).inf) : (s.writeP i q).wordValue w = s.wordValue w := by
  cases w with
  | px i' k =>
    by_cases hi : i = i'
    · subst hi
      simpa [State.wordValue] using hx k rfl
    · simp [State.wordValue, hi]
  | py i' k =>
    by_cases hi : i = i'
    · subst hi
      simpa [State.wordValue] using hy k rfl
    · simp [State.wordValue, hi]
  | pinf i' =>
    by_cases hi : i = i'
    · subst hi
      simp [State.wordValue, hinf rfl]
    · simp [State.wordValue, hi]
  | _ => rfl

/-- A write to a data-region word keeps the value of every other word. -/
theorem wordValue_writeWord_ne {off : Nat} {v : Word} {w : MapWord} (hL : s.cfg.Legal) (h4 : off % 4 = 0)
    (hd : 0x0200 ≤ off) (hw : w ≠ mapWord s.cfg.W off) :
    (s.writeWord (mapWord s.cfg.W off) v).wordValue w = s.wordValue w := by
  have hmin := hL.2.1
  rcases dataWord_cases hL.1 (by omega) h4 hd with
    ⟨i, j, hm, -, hj⟩ | ⟨i, j, hm, -, hj⟩ | ⟨i, hm, -⟩ | ⟨i, j, hm, -⟩ | hm <;> rw [hm] at hw ⊢
  · refine wordValue_writeP (fun k hk => ?_) (fun _ _ => rfl) fun _ => rfl
    exact limb_setCoordLimb_ne _ v hj fun he => hw (he ▸ hk)
  · refine wordValue_writeP (fun _ _ => rfl) (fun k hk => ?_) fun _ => rfl
    exact limb_setCoordLimb_ne _ v hj fun he => hw (he ▸ hk)
  · exact wordValue_writeP (fun _ _ => rfl) (fun _ _ => rfl) fun he => absurd he hw
  · refine wordValue_writeB fun k hk => ?_
    exact limb_setLimb_ne _ j k v fun he => hw (he ▸ hk)
  · rfl

/-- A write to a data-region word keeps what every other address shows: two addresses share only reserved words. -/
theorem peek_writeWord_ne {a a' : WordAddr} {v : Word} (hL : s.cfg.Legal) (hd : 0x0200 ≤ a.offset) (hne : a' ≠ a) :
    (s.writeWord (mapWord s.cfg.W a.offset) v).peek a' = s.peek a' := by
  unfold State.peek
  rw [writeWord_cfg]
  by_cases heq : mapWord s.cfg.W a'.offset = mapWord s.cfg.W a.offset
  · rw [mapWord_injective hL hne heq hd]; rfl
  · exact wordValue_writeWord_ne hL (offset_mod a) hd heq

/-- Settles O50: the write is unlocked, and its frame is `peek_writeWord_ne`. -/
theorem dataWriteLeavesOtherWords : Obligations.DataWriteLeavesOtherWords := by
  unfold Obligations.DataWriteLeavesOtherWords
  intro s a a' v rest hL hb hd hne h
  exact ⟨_, step_write_unlocked ((unlocked_iff s a).2 (.inl hb)) h,
    peek_writeWord_ne (s := { s with bus := rest }) hL hd hne⟩

end Sys2Proof.Machine

/-! SUPPORT. Proofs of the statements of spec/30_encoding.md about words: the fields of a word determine it, a word
decodes exactly when it is the word of a well-formed command, and the opcode map says so by match and mask. -/

namespace Sys2Proof.Laws

/-! ## The fields of a word (R61) -/

section Fields

open BitVec (extractLsb'_append_eq_of_le extractLsb'_append_eq_left extractLsb'_append_eq_right
  extractLsb'_append_extractLsb'_eq_extractLsb')

variable (o : BitVec 8) (d a b c : BitVec 4) (imm : BitVec 8)

@[simp] theorem immField_packWord : immField (packWord o d a b c imm) = imm :=
  extractLsb'_append_eq_right

@[simp] theorem rcField_packWord : rcField (packWord o d a b c imm) = c :=
  (extractLsb'_append_eq_of_le (by decide)).trans extractLsb'_append_eq_right

@[simp] theorem rbField_packWord : rbField (packWord o d a b c imm) = b :=
  (extractLsb'_append_eq_of_le (by decide)).trans <| (extractLsb'_append_eq_of_le (by decide)).trans
    extractLsb'_append_eq_right

@[simp] theorem raField_packWord : raField (packWord o d a b c imm) = a :=
  (extractLsb'_append_eq_of_le (by decide)).trans <| (extractLsb'_append_eq_of_le (by decide)).trans <|
    (extractLsb'_append_eq_of_le (by decide)).trans extractLsb'_append_eq_right

@[simp] theorem rdField_packWord : rdField (packWord o d a b c imm) = d :=
  (extractLsb'_append_eq_of_le (by decide)).trans <| (extractLsb'_append_eq_of_le (by decide)).trans <|
    (extractLsb'_append_eq_of_le (by decide)).trans <| (extractLsb'_append_eq_of_le (by decide)).trans
      extractLsb'_append_eq_right

@[simp] theorem opcodeField_packWord : opcodeField (packWord o d a b c imm) = o :=
  (extractLsb'_append_eq_of_le (by decide)).trans <| (extractLsb'_append_eq_of_le (by decide)).trans <|
    (extractLsb'_append_eq_of_le (by decide)).trans <| (extractLsb'_append_eq_of_le (by decide)).trans
      extractLsb'_append_eq_left

/-- The six fields are the whole word: packed again they give it back. -/
theorem packWord_fields (w : Word) :
    packWord (opcodeField w) (rdField w) (raField w) (rbField w) (rcField w) (immField w) = w := by
  have hd : opcodeField w ++ rdField w = w.extractLsb' 20 12 := extractLsb'_append_extractLsb'_eq_extractLsb' rfl
  have ha : w.extractLsb' 20 12 ++ raField w = w.extractLsb' 16 16 :=
    extractLsb'_append_extractLsb'_eq_extractLsb' rfl
  have hb : w.extractLsb' 16 16 ++ rbField w = w.extractLsb' 12 20 :=
    extractLsb'_append_extractLsb'_eq_extractLsb' rfl
  have hc : w.extractLsb' 12 20 ++ rcField w = w.extractLsb' 8 24 :=
    extractLsb'_append_extractLsb'_eq_extractLsb' rfl
  rw [packWord, hd, ha, hb, hc]
  exact (extractLsb'_append_extractLsb'_eq_extractLsb' rfl).trans BitVec.extractLsb'_eq_self

end Fields

variable {w : Word} {i : Instr}

/-- A word is the packing of six fields exactly when these are its fields. -/
theorem packWord_eq_iff {o : BitVec 8} {d a b c : BitVec 4} {imm : BitVec 8} :
    packWord o d a b c imm = w ↔ opcodeField w = o ∧ rdField w = d ∧ raField w = a ∧ rbField w = b ∧ rcField w = c ∧
      immField w = imm := by
  constructor
  · rintro rfl
    simp
  · rintro ⟨rfl, rfl, rfl, rfl, rfl, rfl⟩
    exact packWord_fields w

/-! ## The tests of R63: what a field that passes holds -/

theorem bReg_eq_ok_iff {f : BitVec 4} {r : BReg} : bReg f = .ok r ↔ f = bField r := by
  revert f r; decide

theorem pReg_eq_ok_iff {f : BitVec 4} {r : PReg} : pReg f = .ok r ↔ f = pField r := by
  revert f r; decide

theorem zeroField_eq_ok_iff {f : BitVec 4} {u : Unit} : zeroField f = .ok u ↔ f = 0 := by
  simp [zeroField]

theorem zeroImm_eq_ok_iff {f : BitVec 8} {u : Unit} : zeroImm f = .ok u ↔ f = 0 := by
  simp [zeroImm]

theorem selImm_eq_ok_iff {f sel : BitVec 8} : selImm f = .ok sel ↔ f = sel ∧ sel.toNat ≤ 5 := by
  by_cases h5 : f.toNat ≤ 5
  · simp only [selImm, h5, if_true, Except.ok.injEq]
    exact ⟨fun h => ⟨h, h ▸ h5⟩, fun h => h.1⟩
  · simp only [selImm, h5, if_false, reduceCtorEq, false_iff]
    exact fun h => h5 (h.1 ▸ h.2)

/-- A sequence of tests succeeds when the first does and the others do on its result. -/
theorem bind_eq_ok_iff {ε α β : Type} {x : Except ε α} {f : α → Except ε β} {r : β} :
    (x >>= f) = .ok r ↔ ∃ v, x = .ok v ∧ f v = .ok r := by
  cases x with
  | ok v => simp [bind, Except.bind]
  | error e => simp [bind, Except.bind]

/-! ## Decoding and encoding (R63, R69) -/

theorem wellFormed_ldc_iff {bd : BReg} {sel : BitVec 8} : (Instr.ldc bd sel).WellFormed ↔ sel.toNat ≤ 5 := by
  simp [Instr.WellFormed, Instr.wellFormed]

/-- Settles O1: every field of the word passes the test of its column, with the operand it was packed from. -/
theorem decodeReadsEncodedCommand : Obligations.DecodeReadsEncodedCommand := by
  unfold Obligations.DecodeReadsEncodedCommand
  intro i hwf
  have hb (r : BReg) : bReg (bField r) = .ok r := bReg_eq_ok_iff.2 rfl
  have hp (r : PReg) : pReg (pField r) = .ok r := pReg_eq_ok_iff.2 rfl
  have h0 : zeroField 0#4 = .ok () := rfl
  have hi : zeroImm 0#8 = .ok () := rfl
  cases i with
  | ldc bd sel =>
    have hs : selImm sel = .ok sel := selImm_eq_ok_iff.2 ⟨rfl, wellFormed_ldc_iff.1 hwf⟩
    simp [decode, encode, hb, h0, hs, bind_eq_ok_iff]
  | _ => simp [decode, encode, hb, hp, h0, hi, bind_eq_ok_iff]

/-- The form in which an arm of the decoder knows the fields: its opcode as a number. -/
theorem packWord_of_fields {o : BitVec 8} {d a b c : BitVec 4} {imm : BitVec 8} (ho : (opcodeField w).toNat = o.toNat)
    (hd : rdField w = d) (ha : raField w = a) (hb : rbField w = b) (hc : rcField w = c) (hi : immField w = imm) :
    packWord o d a b c imm = w :=
  packWord_eq_iff.2 ⟨BitVec.eq_of_toNat_eq ho, hd, ha, hb, hc, hi⟩

/-- Settles O2: in each arm of the decoder the opcode and the five tests fix all six fields of the word. -/
theorem encodeRestoresDecodedWord : Obligations.EncodeRestoresDecodedWord := by
  unfold Obligations.EncodeRestoresDecodedWord
  intro w i h
  simp only [decode] at h
  split at h
  case h_19 => cases h
  -- each other arm: what its tests found becomes one hypothesis per field
  all_goals
    revert h
    simp only [bind_eq_ok_iff, bReg_eq_ok_iff, pReg_eq_ok_iff, zeroField_eq_ok_iff, zeroImm_eq_ok_iff, selImm_eq_ok_iff,
      forall_exists_index, and_imp, pure, Except.pure, Except.ok.injEq]
    intros
    subst i
  case h_4 => exact ⟨wellFormed_ldc_iff.2 ‹_›, packWord_of_fields ‹_› ‹_› ‹_› ‹_› ‹_› ‹_›⟩
  all_goals exact ⟨rfl, packWord_of_fields ‹_› ‹_› ‹_› ‹_› ‹_› ‹_›⟩

/-! ## The opcode map (R63, R64) -/

variable {r : Word × Word}

/-- Every row's mask covers the opcode, and its match has no other field. -/
theorem opcodeMap_fields :
    ∀ r ∈ opcodeMap, opcodeField r.2 = BitVec.allOnes 8 ∧ packWord (opcodeField r.1) 0 0 0 0 0 = r.1 := by
  have hall : opcodeMap.all fun r =>
      opcodeField r.2 = BitVec.allOnes 8 ∧ packWord (opcodeField r.1) 0 0 0 0 0 = r.1 := by decide
  simpa using hall

/-- What matching a row says of each field: the row's opcode, and no bit under the mask in the other five. -/
theorem fields_of_match (hr : r ∈ opcodeMap) (h : w &&& r.2 = r.1) :
    opcodeField w = opcodeField r.1 ∧ rdField w &&& rdField r.2 = 0 ∧ raField w &&& raField r.2 = 0 ∧
      rbField w &&& rbField r.2 = 0 ∧ rcField w &&& rcField r.2 = 0 ∧ immField w &&& immField r.2 = 0 := by
  obtain ⟨hmask, hmatch⟩ := opcodeMap_fields r hr
  obtain ⟨-, hfields⟩ := packWord_eq_iff.1 hmatch
  simp only [← h, opcodeField, rdField, raField, rbField, rcField, immField, BitVec.extractLsb'_and] at hmask hfields ⊢
  exact ⟨by rw [hmask, BitVec.and_allOnes], hfields⟩

/-- Settles O4: the masks cover the opcode, and no two rows have the same one. -/
theorem noTwoRowsMatchOneWord : Obligations.NoTwoRowsMatchOneWord := by
  unfold Obligations.NoTwoRowsMatchOneWord
  intro w r hr r' hr' h h'
  have hopcodes : (opcodeMap.map (opcodeField ·.1)).Nodup := by decide
  exact List.inj_on_of_nodup_map hopcodes hr hr' ((fields_of_match hr h).1.symm.trans (fields_of_match hr' h').1)

/-- The register that a field of a `B` column names. -/
def bIndex (f : BitVec 4) : BReg := Fin.ofNat 8 f.toNat

/-- The register that a field of a `P` column names. -/
def pIndex (f : BitVec 4) : PReg := Fin.ofNat 4 f.toNat

theorem eq_bField {f : BitVec 4} (h : f &&& 8 = 0) : f = bField (bIndex f) := by
  revert f; decide

theorem eq_pField {f : BitVec 4} (h : f &&& 12 = 0) : f = pField (pIndex f) := by
  revert f; decide

theorem field_zero {f : BitVec 4} (h : f &&& 15 = 0) : f = 0 := by
  revert f; decide

theorem imm_zero {f : BitVec 8} (h : f &&& 0xFF = 0) : f = 0 := by
  revert f; decide

/-- A word that matches a row is the word of a command of that row: each field under the row's mask is one that its
column allows. -/
theorem exists_command_of_match (hr : r ∈ opcodeMap) (h : w &&& r.2 = r.1)
    (h5 : r.1 = 0x03000000 → (immField w).toNat ≤ 5) : ∃ i : Instr, i.WellFormed ∧ encode i = w ∧ i.row = r := by
  obtain ⟨ho, hd, ha, hb, hc, hi⟩ := fields_of_match hr h
  simp only [opcodeMap, List.mem_cons, List.not_mem_nil, or_false] at hr
  rcases hr with
    rfl | rfl | rfl | rfl | rfl | rfl | rfl | rfl | rfl | rfl | rfl | rfl | rfl | rfl | rfl | rfl | rfl | rfl
  · exact ⟨.nop, rfl,
      packWord_eq_iff.2 ⟨ho, field_zero hd, field_zero ha, field_zero hb, field_zero hc, imm_zero hi⟩, rfl⟩
  · exact ⟨.mov (bIndex _) (bIndex _), rfl,
      packWord_eq_iff.2 ⟨ho, eq_bField hd, eq_bField ha, field_zero hb, field_zero hc, imm_zero hi⟩, rfl⟩
  · exact ⟨.pmov (pIndex _) (pIndex _), rfl,
      packWord_eq_iff.2 ⟨ho, eq_pField hd, eq_pField ha, field_zero hb, field_zero hc, imm_zero hi⟩, rfl⟩
  · exact ⟨.ldc (bIndex _) _, wellFormed_ldc_iff.2 (h5 rfl),
      packWord_eq_iff.2 ⟨ho, eq_bField hd, field_zero ha, field_zero hb, field_zero hc, rfl⟩, rfl⟩
  · exact ⟨.pldg (pIndex _), rfl,
      packWord_eq_iff.2 ⟨ho, eq_pField hd, field_zero ha, field_zero hb, field_zero hc, imm_zero hi⟩, rfl⟩
  · exact ⟨.padd (pIndex _) (pIndex _) (pIndex _), rfl,
      packWord_eq_iff.2 ⟨ho, eq_pField hd, eq_pField ha, eq_pField hb, field_zero hc, imm_zero hi⟩, rfl⟩
  · exact ⟨.pdbl (pIndex _) (pIndex _), rfl,
      packWord_eq_iff.2 ⟨ho, eq_pField hd, eq_pField ha, field_zero hb, field_zero hc, imm_zero hi⟩, rfl⟩
  · exact ⟨.pneg (pIndex _) (pIndex _), rfl,
      packWord_eq_iff.2 ⟨ho, eq_pField hd, eq_pField ha, field_zero hb, field_zero hc, imm_zero hi⟩, rfl⟩
  · exact ⟨.pmul (pIndex _) (pIndex _) (bIndex _), rfl,
      packWord_eq_iff.2 ⟨ho, eq_pField hd, eq_pField ha, eq_bField hb, field_zero hc, imm_zero hi⟩, rfl⟩
  · exact ⟨.pchk (pIndex _), rfl,
      packWord_eq_iff.2 ⟨ho, field_zero hd, eq_pField ha, field_zero hb, field_zero hc, imm_zero hi⟩, rfl⟩
  · exact ⟨.mred (bIndex _) (bIndex _) (bIndex _), rfl,
      packWord_eq_iff.2 ⟨ho, eq_bField hd, eq_bField ha, eq_bField hb, field_zero hc, imm_zero hi⟩, rfl⟩
  · exact ⟨.mmul (bIndex _) (bIndex _) (bIndex _) (bIndex _), rfl,
      packWord_eq_iff.2 ⟨ho, eq_bField hd, eq_bField ha, eq_bField hb, eq_bField hc, imm_zero hi⟩, rfl⟩
  · exact ⟨.minv (bIndex _) (bIndex _) (bIndex _), rfl,
      packWord_eq_iff.2 ⟨ho, eq_bField hd, eq_bField ha, eq_bField hb, field_zero hc, imm_zero hi⟩, rfl⟩
  · exact ⟨.mexp (bIndex _) (bIndex _) (bIndex _) (bIndex _), rfl,
      packWord_eq_iff.2 ⟨ho, eq_bField hd, eq_bField ha, eq_bField hb, eq_bField hc, imm_zero hi⟩, rfl⟩
  · exact ⟨.qrt (bIndex _) (bIndex _), rfl,
      packWord_eq_iff.2 ⟨ho, field_zero hd, eq_bField ha, eq_bField hb, field_zero hc, imm_zero hi⟩, rfl⟩
  · exact ⟨.bsqrt (bIndex _) (bIndex _) (bIndex _), rfl,
      packWord_eq_iff.2 ⟨ho, eq_bField hd, eq_bField ha, eq_bField hb, field_zero hc, imm_zero hi⟩, rfl⟩
  · exact ⟨.rcrt (bIndex _) (bIndex _) (bIndex _) (bIndex _), rfl,
      packWord_eq_iff.2 ⟨ho, eq_bField hd, eq_bField ha, eq_bField hb, eq_bField hc, imm_zero hi⟩, rfl⟩
  · exact ⟨.rvfy (bIndex _) (bIndex _) (bIndex _), rfl,
      packWord_eq_iff.2 ⟨ho, field_zero hd, eq_bField ha, eq_bField hb, eq_bField hc, imm_zero hi⟩, rfl⟩

/-- The word of a legal command matches the command's row of R64. -/
theorem encode_and_mask (i : Instr) : EncodeMatches.Statement i := by
  cases i with
  | nop => exact EncodeMatches.nop
  | mov bd ba => exact EncodeMatches.mov bd ba
  | pmov pd pa => exact EncodeMatches.pmov pd pa
  | ldc bd sel => exact EncodeMatches.ldc bd sel
  | pldg pd => exact EncodeMatches.pldg pd
  | padd pd pa pb => exact EncodeMatches.padd pd pa pb
  | pdbl pd pa => exact EncodeMatches.pdbl pd pa
  | pneg pd pa => exact EncodeMatches.pneg pd pa
  | pmul pd pa bk => exact EncodeMatches.pmul pd pa bk
  | pchk pa => exact EncodeMatches.pchk pa
  | mred bd ba bm => exact EncodeMatches.mred bd ba bm
  | mmul bd ba bb bm => exact EncodeMatches.mmul bd ba bb bm
  | minv bd bk bm => exact EncodeMatches.minv bd bk bm
  | mexp bd bb be bm => exact EncodeMatches.mexp bd bb be bm
  | qrt ba bp => exact EncodeMatches.qrt ba bp
  | bsqrt bd ba bp => exact EncodeMatches.bsqrt bd ba bp
  | rcrt bd bh bp bq => exact EncodeMatches.rcrt bd bh bp bq
  | rvfy bs bh bn => exact EncodeMatches.rvfy bs bh bn

/-- LDC's row is LDC's alone, so a legal command of that row has a selector of R66 in its word. -/
theorem imm_le_of_row_ldc (hwf : i.WellFormed) (hrow : i.row.1 = 0x03000000) : (immField (encode i)).toNat ≤ 5 := by
  cases i with
  | ldc bd sel => simpa [encode] using wellFormed_ldc_iff.1 hwf
  | _ => simp [Instr.row] at hrow

/-- Settles O3: a decoded word is its command's own word, which matches the row; a matching word is such a word. -/
theorem decodeAgreesWithOpcodeMap : Obligations.DecodeAgreesWithOpcodeMap := by
  unfold Obligations.DecodeAgreesWithOpcodeMap
  intro w r hr
  constructor
  · rintro ⟨i, hdec, rfl⟩
    obtain ⟨hwf, rfl⟩ := encodeRestoresDecodedWord w i hdec
    exact ⟨encode_and_mask i hwf, imm_le_of_row_ldc hwf⟩
  · rintro ⟨h, h5⟩
    obtain ⟨i, hwf, rfl, hrow⟩ := exists_command_of_match hr h h5
    exact ⟨i, decodeReadsEncodedCommand i hwf, hrow⟩

/-- Settles O5: the decoder run on each word. -/
theorem writtenOutWordsDecode : Obligations.WrittenOutWordsDecode := by
  unfold Obligations.WrittenOutWordsDecode
  decide

end Sys2Proof.Laws

/-! SUPPORT. Proofs of the statements of spec/30_encoding.md about the script directives of R71: the limb writes of WRB
load the register, and ISSUE and WAIT run the command whatever the number of polls. -/

namespace Sys2Proof.Machine

variable {s t u : State}

/-! ## Runs of several steps -/

theorem run_succ (k : Nat) (h : step s = .next t) :
    Host.Core.run Sys2Proof.core (k + 1) s = Host.Core.run Sys2Proof.core k t := by
  simp only [Host.Core.run, Sys2Proof.core, h]

theorem run_one (h : step s = .next t) : Host.Core.run Sys2Proof.core 1 s = .next t := run_succ 0 h

/-- A run of `k` steps that ends in `t` is continued from `t`. -/
theorem run_add (k m : Nat) (h : Host.Core.run Sys2Proof.core k s = .next t) :
    Host.Core.run Sys2Proof.core (k + m) s = Host.Core.run Sys2Proof.core m t := by
  induction k generalizing s with
  | zero => cases h; rw [Nat.zero_add]
  | succ k ih =>
    obtain ⟨u, hu, -⟩ := step_cases s
    rw [run_succ k hu] at h
    rw [Nat.succ_add, run_succ _ hu, ih h]

/-! ## WRB: the register after some of its limbs were written (R44, R71) -/

/-- `old` with its limbs below `n` replaced by those of `v`. -/
def withLowLimbs (old v n : Nat) : Nat := old / 2 ^ (32 * n) * 2 ^ (32 * n) + v % 2 ^ (32 * n)

theorem withLowLimbs_zero (old v : Nat) : withLowLimbs old v 0 = old := by
  simp [withLowLimbs, Nat.mod_one]

/-- Writing the next limb of `v` takes one limb more from `v`. -/
theorem setLimb_withLowLimbs (old v n : Nat) :
    setLimb (withLowLimbs old v n) n (limb v n) = withLowLimbs old v (n + 1) := by
  have hpos := Nat.two_pow_pos (32 * n)
  have hpow : 2 ^ (32 * (n + 1)) = 2 ^ (32 * n) * 2 ^ 32 := by rw [← Nat.pow_add]; rfl
  have ⟨hdiv, hlow⟩ : withLowLimbs old v n / 2 ^ (32 * n) = old / 2 ^ (32 * n) ∧
      withLowLimbs old v n % 2 ^ (32 * n) = v % 2 ^ (32 * n) :=
    (Nat.div_mod_unique hpos).2 ⟨by rw [withLowLimbs]; ring, Nat.mod_lt _ hpos⟩
  have hhigh : withLowLimbs old v n / 2 ^ (32 * (n + 1)) = old / 2 ^ (32 * (n + 1)) := by
    rw [hpow, ← Nat.div_div_eq_div_mul, hdiv, Nat.div_div_eq_div_mul]
  have hv : v % 2 ^ (32 * (n + 1)) = v % 2 ^ (32 * n) + 2 ^ (32 * n) * (limb v n).toNat := by
    rw [hpow, Nat.mod_mul, limb_toNat]
  rw [setLimb, hlow, hhigh, withLowLimbs, hv]
  ring

/-- When both values have `n` limbs, nothing of the old one is left. -/
theorem withLowLimbs_full {old v n : Nat} (hold : old < 2 ^ (32 * n)) (hv : v < 2 ^ (32 * n)) :
    withLowLimbs old v n = v := by
  rw [withLowLimbs, Nat.div_eq_of_lt hold, Nat.mod_eq_of_lt hv, Nat.zero_mul, Nat.zero_add]

theorem writeB_readB (s : State) (i : BReg) : s.writeB i (s.readB i) = s := by
  rw [State.writeB, State.readB_eq, Vector.set_getElem_self]

theorem writeB_writeB_same (s : State) (i : BReg) (v v' : Nat) : (s.writeB i v).writeB i v' = s.writeB i v' := by
  rw [State.writeB, State.writeB_b, Vector.set_set]; rfl

/-- `MemWrite` of the limbs 0 to `n - 1` of `v` to `b<i>`: the first `n` transactions of `WRB bi, v`. -/
def wrbLimbs (W : Nat) (i : BReg) (v n : Nat) : List HostAction :=
  (List.range n).map fun j => .write (wordAddr (bOffset W i j)) (limb v j)

theorem wrb_eq_wrbLimbs (W : Nat) (i : BReg) (v : Nat) : wrb W i v = wrbLimbs W i v (W / 32) := rfl

theorem wrbLimbs_succ (W : Nat) (i : BReg) (v n : Nat) (rest : List HostAction) :
    wrbLimbs W i v (n + 1) ++ rest = wrbLimbs W i v n ++ .write (wordAddr (bOffset W i n)) (limb v n) :: rest := by
  simp [wrbLimbs, List.range_succ]

/-- One limb write of WRB while BUSY = 0 (R44). -/
theorem step_limbWrite (hL : s.cfg.Legal) (hb : s.busy = false) {i : BReg} {j : Nat} {d : Word} {rest : List HostAction}
    (hj : j < s.cfg.W / 32) (h : s.bus = .write (wordAddr (bOffset s.cfg.W i j)) d :: rest) :
    step s = .next { s.writeB i (setLimb (s.readB i) j d) with bus := rest } :=
  step_write_idle hb (bOffset_inside hL i hj) (mapWord_bOffset hL.1 i hj) h

/-- After the first `n` transactions of WRB the register has the low `n` limbs of `v`, and nothing else has changed. -/
theorem run_wrbLimbs (hL : s.cfg.Legal) (hb : s.busy = false) (i : BReg) (v : Nat) {n : Nat} (hn : n ≤ s.cfg.W / 32)
    {rest : List HostAction} (hbus : s.bus = wrbLimbs s.cfg.W i v n ++ rest) :
    Host.Core.run Sys2Proof.core n s = .next { s.writeB i (withLowLimbs (s.readB i) v n) with bus := rest } := by
  induction n generalizing rest with
  | zero =>
    rw [withLowLimbs_zero, writeB_readB]
    exact congrArg (fun acts => Host.Outcome.next { s with bus := acts }) hbus
  | succ n ih =>
    rw [wrbLimbs_succ] at hbus
    rw [run_add n 1 (ih (by omega) hbus)]
    refine run_one ((step_limbWrite (s := { s.writeB i (withLowLimbs (s.readB i) v n) with
      bus := .write (wordAddr (bOffset s.cfg.W i n)) (limb v n) :: rest }) hL hb hn rfl).trans ?_)
    change Host.Outcome.next { (s.writeB i _).writeB i (setLimb ((s.writeB i _).readB i) n _) with bus := rest } = _
    rw [State.readB_writeB_same, setLimb_withLowLimbs, writeB_writeB_same]

/-- Settles O58: with all `W/32` limbs of `v` in place the register is `v`, since both values have `W` bits. -/
theorem wrbLoadsTheRegister : Obligations.WrbLoadsTheRegister := by
  unfold Obligations.WrbLoadsTheRegister
  intro s i v rest hL hfits hb hv hbus
  have hW : 2 ^ s.cfg.W = 2 ^ (32 * (s.cfg.W / 32)) := congrArg _ (legal_limbs hL).2.1
  rw [wrb_eq_wrbLimbs] at hbus
  rw [run_wrbLimbs hL hb i v le_rfl hbus, withLowLimbs_full (hW ▸ hfits i) (hW ▸ hv)]

/-! ## ISSUE and WAIT: the polls do not reach the engine (R50, R71) -/

/-- `s` with another port output and other host actions: the two fields that the model adds to the spec's (log 3, log 5)
and that no command reads or writes. -/
def State.withPort (s : State) (d : Word) (acts : List HostAction) : State := { s with rdata := d, bus := acts }

theorem finish_withPort {α : Type} {w : State → α → State} {r : Except FaultCode α} {d : Word} {acts : List HostAction}
    (hw : ∀ v, w (s.withPort d acts) v = (w s v).withPort d acts) (h : finish s (r.map (w s)) = .next t) :
    finish (s.withPort d acts) (r.map (w (s.withPort d acts))) = .next (t.withPort d acts) := by
  cases r with
  | ok v => cases h; exact congrArg succeed (hw v)
  | error c => cases h; rfl

/-- A command does the same whatever the port shows and the host will do. -/
theorem exec_withPort (i : Instr) (d : Word) (acts : List HostAction) (h : exec i s = .next t) :
    exec i (s.withPort d acts) = .next (t.withPort d acts) := by
  cases i with
  | nop | mov | pmov | pldg | pchk => cases h; rfl
  | ldc | mred | mmul | minv | mexp | bsqrt | rcrt =>
    exact finish_withPort (w := fun s => s.writeB _) (fun _ => rfl) h
  | padd | pdbl | pneg | pmul => exact finish_withPort (w := fun s => s.writeP _) (fun _ => rfl) h
  | qrt | rvfy => exact finish_withPort (w := State.writeT) (fun _ => rfl) h

/-- STATUS does not show the port or the host's actions. -/
theorem statusWord_withPort (s : State) (d : Word) (acts : List HostAction) :
    (s.withPort d acts).statusWord = s.statusWord := rfl

theorem step_rds {rest : List HostAction} (h : s.bus = rds :: rest) :
    step s = .next (s.withPort s.statusWord rest) :=
  step_read_control (by decide) (by decide) h

/-- Polls change the port's output alone. -/
theorem run_polls (n : Nat) (rest : List HostAction) (h : s.bus = List.replicate n rds ++ rest) :
    ∃ d, Host.Core.run Sys2Proof.core n s = .next (s.withPort d rest) := by
  induction n generalizing s with
  | zero => exact ⟨s.rdata, congrArg (fun acts => Host.Outcome.next (s.withPort s.rdata acts)) h⟩
  | succ n ih =>
    obtain ⟨d, hd⟩ := ih (s := s.withPort s.statusWord (List.replicate n rds ++ rest)) rfl
    exact ⟨d, (run_succ n (step_rds h)).trans hd⟩

/-- The engine's turn and the poll that reads BUSY = 0 (R71): the pending command's end, with STATUS at the port. -/
theorem run_pause_rds {i : Instr} {rest : List HostAction} (hb : s.busy = true) (hd : decode s.cmdreg = .ok i)
    (hx : exec i s = .next u) (h : s.bus = .pause :: rds :: rest) :
    Host.Core.run Sys2Proof.core 2 s = .next (u.withPort u.statusWord rest) := by
  have hturn : step s = .next (u.withPort s.rdata (rds :: rest)) := by
    rw [step_pause h]
    exact (engineTurn_of_decode (s := s.withPort s.rdata (rds :: rest)) hb hd).trans (exec_withPort i _ _ hx)
  rw [run_succ 1 hturn]
  exact run_one (step_rds rfl)

/-- Settles O59: the ISSUE is accepted, the polls change only the port, and the command does not depend on it. -/
theorem issueAndWaitRunsTheCommand : Obligations.IssueAndWaitRunsTheCommand := by
  unfold Obligations.IssueAndWaitRunsTheCommand
  intro s i n rest hwf hb he hbus
  obtain ⟨u, hu⟩ := exec_next i (s.accept (encode i))
  have hissue : step s = .next ((s.accept (encode i)).withPort s.rdata (wait n ++ rest)) := by
    rw [step_write_cmd hbus]
    exact congrArg _ (offer_of_ready (s := { s with bus := wait n ++ rest }) _ hb he)
  have hwait : wait n ++ rest = List.replicate n rds ++ .pause :: rds :: rest := by simp [wait]
  obtain ⟨d, hpolls⟩ := run_polls (s := (s.accept (encode i)).withPort s.rdata (wait n ++ rest)) n _ hwait
  have hturn := run_pause_rds (s := (s.accept (encode i)).withPort d (.pause :: rds :: rest)) (rest := rest) rfl
    (Laws.decodeReadsEncodedCommand i hwf) (exec_withPort i d _ hu) rfl
  refine ⟨u.withPort s.rdata rest, exec_withPort i s.rdata rest hu, ?_⟩
  rw [run_succ (n + 2) hissue, run_add n 2 hpolls]
  exact hturn

end Sys2Proof.Machine

/-! SUPPORT. Proofs of the statements of spec/40_control.md: the control and move commands end in the one success of their
destination, and LDC's selector and PLDG's coordinates name the constants of spec/00_scope.md R8. -/

namespace Sys2Proof.Machine

/-! ## LDC's selector (R83, spec/30_encoding.md R66) -/

theorem constant?_of_lt {k : Nat} (h : k < 6) :
    constant? k = some ([Curve.P, Curve.N, Curve.A, Curve.B, Curve.Gx, Curve.Gy][k]'h) := by
  interval_cases k <;> rfl

theorem execLdc_of_constant {bd : BReg} {sel : BitVec 8} {c : Nat} (s : State) (h : constant? sel.toNat = some c) :
    ∃ t, execLdc bd sel s = .next t ∧ WroteB s t bd c := by
  rw [execLdc, h]
  exact finishB_ok s bd c

theorem selImm_of_gt {f : BitVec 8} (h : 5 < f.toNat) : selImm f = .error .badImmediate :=
  if_neg (Nat.not_le.2 h)

/-- LDC's other fields are in order, so the selector alone makes the word illegal. -/
theorem decode_ldc_of_gt (bd : BReg) {sel : BitVec 8} (h : 5 < sel.toNat) :
    decode (packWord 0x03 (bField bd) 0 0 0 sel) = .error .badImmediate := by
  have hb : bReg (bField bd) = .ok bd := Laws.bReg_eq_ok_iff.2 rfl
  have h0 : zeroField 0#4 = .ok () := rfl
  simp [decode, hb, h0, selImm_of_gt h, bind, Except.bind]

/-! ## The coordinates of a finite point (spec/10_state.md R13, R14) -/

theorem finite_x_toNat {x : Nat} (y : Nat) (hx : x < 2 ^ 256) : (Point.finite x y).x.toNat = x :=
  (BitVec.toNat_ofNat x 256).trans (Nat.mod_eq_of_lt hx)

theorem finite_y_toNat (x : Nat) {y : Nat} (hy : y < 2 ^ 256) : (Point.finite x y).y.toNat = y :=
  (BitVec.toNat_ofNat y 256).trans (Nat.mod_eq_of_lt hy)

/-! ## The statements of spec/40_control.md -/

/-- Settles O12: NOP's end is the success that writes nothing. -/
theorem nopOnlyCompletes : Obligations.NopOnlyCompletes := by
  unfold Obligations.NopOnlyCompletes
  exact ⟨by decide, fun s => ⟨_, rfl, wroteNothing_complete s⟩⟩

/-- Settles O13: MOV's end is the success that writes the source's value, `bd = ba` included. -/
theorem movCopiesTheRegister : Obligations.MovCopiesTheRegister := by
  unfold Obligations.MovCopiesTheRegister
  intro bd ba
  exact ⟨Laws.decodeReadsEncodedCommand (.mov bd ba) rfl,
    fun s => ⟨_, rfl, wroteB_complete s bd (s.readB ba)⟩⟩

/-- Settles O14: PMOV's end is the success that writes the source point as it is. -/
theorem pmovCopiesThePointRaw : Obligations.PmovCopiesThePointRaw := by
  unfold Obligations.PmovCopiesThePointRaw
  intro pd pa
  exact ⟨Laws.decodeReadsEncodedCommand (.pmov pd pa) rfl,
    fun s => ⟨_, rfl, wroteP_complete s pd (s.readP pa)⟩⟩

/-- Settles O15: the six legal selectors pick R83's table entry by entry, and the decoder's test refuses the others. -/
theorem ldcLoadsTheSelectedConstant : Obligations.LdcLoadsTheSelectedConstant := by
  unfold Obligations.LdcLoadsTheSelectedConstant
  intro bd sel
  refine ⟨fun h => ⟨?_, fun s => ?_⟩, fun h => ?_⟩
  · exact Laws.decodeReadsEncodedCommand (.ldc bd sel) (Laws.wellFormed_ldc_iff.2 (Nat.le_of_lt_succ h))
  · exact execLdc_of_constant s (constant?_of_lt h)
  · exact decode_ldc_of_gt bd h

/-- Settles O16: PLDG's end is the success that writes the generator, whose coordinates fit their 256 bits. -/
theorem pldgLoadsTheGenerator : Obligations.PldgLoadsTheGenerator := by
  unfold Obligations.PldgLoadsTheGenerator
  intro pd
  refine ⟨Laws.decodeReadsEncodedCommand (.pldg pd) rfl, fun s =>
    ⟨_, Point.generator, rfl, wroteP_complete s pd Point.generator, rfl, ?_, ?_⟩⟩
  · exact finite_x_toNat Curve.Gy (by decide)
  · exact finite_y_toNat Curve.Gx (by decide)

end Sys2Proof.Machine

/-! SUPPORT. The point functions of spec/41_ec.md (R92 to R94) are the group of the curve `y² = x³ + 7` over the residues
modulo `P`, which Mathlib proves associative: `pointAdd` is its addition, `reflect` its negation, and each of the three
multiplication loops its `k`-fold sum (R100). -/

namespace Sys2Proof.Machine

/-! ## The residues modulo `P` -/

theorem natCast_inj_of_lt {a b : Nat} (ha : a < Curve.P) (hb : b < Curve.P) :
    (a : ZMod Curve.P) = b ↔ a = b := by
  rw [ZMod.natCast_eq_natCast_iff', Nat.mod_eq_of_lt ha, Nat.mod_eq_of_lt hb]

theorem intCast_emod_P (z : Int) : (((z % (Curve.P : Int)).toNat : Nat) : ZMod Curve.P) = z := by
  have hnn := Int.emod_nonneg z (Int.natCast_ne_zero.2 P_pos.ne')
  rw [← Int.cast_natCast, Int.toNat_of_nonneg hnn, ZMod.intCast_mod]

theorem emod_P_lt (z : Int) : (z % (Curve.P : Int)).toNat < Curve.P := by
  have hpos : (0 : Int) < (Curve.P : Int) := Int.natCast_pos.2 P_pos
  have := Int.emod_lt_of_pos z hpos
  have := Int.emod_nonneg z hpos.ne'
  omega

theorem lt_coord_of_lt_P {a : Nat} (h : a < Curve.P) : a < 2 ^ 256 := h.trans (by decide)

/-! ## The curve -/

/-- The curve of R91, `y² = x³ + 7`, over the residues modulo `P`. -/
def residueCurve : WeierstrassCurve.Affine (ZMod Curve.P) := { a₁ := 0, a₂ := 0, a₃ := 0, a₄ := 0, a₆ := 7 }

theorem residueCurve_equation_iff (x y : ZMod Curve.P) : residueCurve.Equation x y ↔ y * y = x * x * x + 7 := by
  rw [WeierstrassCurve.Affine.equation_iff]
  simp only [residueCurve]
  ring_nf

@[simp] theorem residueCurve_negY (x y : ZMod Curve.P) : residueCurve.negY x y = -y := by
  simp [WeierstrassCurve.Affine.negY, residueCurve]

@[simp] theorem residueCurve_addX (x₁ x₂ m : ZMod Curve.P) : residueCurve.addX x₁ x₂ m = m * m - x₁ - x₂ := by
  simp only [WeierstrassCurve.Affine.addX, residueCurve]
  ring

@[simp] theorem residueCurve_addY (x₁ x₂ y₁ m : ZMod Curve.P) :
    residueCurve.addY x₁ x₂ y₁ m = m * (x₁ - (m * m - x₁ - x₂)) - y₁ := by
  simp only [WeierstrassCurve.Affine.addY, WeierstrassCurve.Affine.negAddY, residueCurve_negY, residueCurve_addX]
  ring

/-- The predicate `Equation` on a point's coordinates is the curve's equation on their residues. -/
theorem equation_iff_residueCurve (q : Point) :
    q.Equation ↔ residueCurve.Equation (q.x.toNat : ZMod Curve.P) (q.y.toNat : ZMod Curve.P) := by
  rw [residueCurve_equation_iff, Point.Equation, ← ZMod.natCast_eq_natCast_iff']
  push_cast
  rfl

/-! ## The chord's point -/

theorem chordPoint_x_toNat (m x₁ y₁ x₂ : Nat) :
    (chordPoint m x₁ y₁ x₂).x.toNat = (((m : Int) * m - x₁ - x₂) % Curve.P).toNat :=
  finite_x_toNat _ (lt_coord_of_lt_P (emod_P_lt _))

theorem chordPoint_y_toNat (m x₁ y₁ x₂ : Nat) : (chordPoint m x₁ y₁ x₂).y.toNat =
    (((m : Int) * ((x₁ : Int) - (chordPoint m x₁ y₁ x₂).x.toNat) - y₁) % Curve.P).toNat := by
  rw [chordPoint_x_toNat]
  exact finite_y_toNat _ (lt_coord_of_lt_P (emod_P_lt _))

theorem chordPoint_x_lt (m x₁ y₁ x₂ : Nat) : (chordPoint m x₁ y₁ x₂).x.toNat < Curve.P := by
  rw [chordPoint_x_toNat]; exact emod_P_lt _

theorem chordPoint_y_lt (m x₁ y₁ x₂ : Nat) : (chordPoint m x₁ y₁ x₂).y.toNat < Curve.P := by
  rw [chordPoint_y_toNat]; exact emod_P_lt _

theorem chordPoint_x_residue (m x₁ y₁ x₂ : Nat) :
    ((chordPoint m x₁ y₁ x₂).x.toNat : ZMod Curve.P) = residueCurve.addX (x₁ : ZMod Curve.P) x₂ m := by
  rw [chordPoint_x_toNat, intCast_emod_P, residueCurve_addX]
  push_cast
  rfl

theorem chordPoint_y_residue (m x₁ y₁ x₂ : Nat) :
    ((chordPoint m x₁ y₁ x₂).y.toNat : ZMod Curve.P) = residueCurve.addY (x₁ : ZMod Curve.P) x₂ y₁ m := by
  rw [chordPoint_y_toNat, intCast_emod_P, residueCurve_addY, ← residueCurve_addX, ← chordPoint_x_residue m x₁ y₁ x₂]
  push_cast
  rfl

/-! ## `pointAdd`, the cases without a slope (R92) -/

theorem pointAdd_of_inf_left {q : Point} (r : Point) (h : q.inf = true) : pointAdd q r = .ok r.canonical := if_pos h

theorem pointAdd_of_inf_right (q : Point) {r : Point} (h : r.inf = true) : pointAdd q r = .ok q.canonical := by
  cases hq : q.inf with
  | true => simp [pointAdd, Point.canonical, hq, h]
  | false => simp [pointAdd, hq, h]

theorem pointAdd_of_opposite {q r : Point} (hq : q.inf = false) (hr : r.inf = false) (hx : q.x.toNat = r.x.toNat)
    (hy : q.y.toNat ≠ r.y.toNat) : pointAdd q r = .ok Point.infinity := by
  simp [pointAdd, hq, hr, hx, hy]

/-! ## Point values (R14, R99) -/

theorem canonical_of_inf {q : Point} (h : q.inf = true) : q.canonical = Point.infinity := if_pos h

theorem canonical_canonical (q : Point) : q.canonical.canonical = q.canonical := by
  cases h : q.inf <;> simp [Point.canonical, Point.infinity, h]

/-- The finite members have reduced coordinates that satisfy the equation. -/
theorem Point.Member.of_finite {q : Point} (h : q.Member) (hi : q.inf = false) :
    q.x.toNat < Curve.P ∧ q.y.toNat < Curve.P ∧ q.Equation :=
  h.resolve_left (by rw [hi]; decide)

/-! ## The loops, a round at a time -/

theorem pointMulLoop_succ (k : Nat) (q : Point) (i : Nat) (r : Point) : pointMulLoop k q (i + 1) r =
    pointAdd r r >>= fun d => (if k.testBit i then pointAdd d q else .ok d) >>= pointMulLoop k q i := by
  rw [pointMulLoop]
  cases k.testBit i <;> rfl

theorem lsbMulLoop_succ (i k : Nat) (r q : Point) : lsbMulLoop (i + 1) k r q =
    (if k % 2 = 1 then pointAdd r q else .ok r) >>= fun r' => pointAdd q q >>= lsbMulLoop i (k / 2) r' := by
  rw [lsbMulLoop]
  split <;> rfl

/-! ## `reflect` (R94) -/

theorem reflect_of_inf {q : Point} (h : q.inf = true) : reflect q = Point.infinity := if_pos h

theorem reflect_of_finite {q : Point} (h : q.inf = false) :
    reflect q = Point.finite q.x.toNat (((Curve.P : Int) - q.y.toNat) % Curve.P).toNat := by
  rw [reflect, h]
  rfl

theorem reflect_inf {q : Point} (h : q.inf = false) : (reflect q).inf = false := by rw [reflect_of_finite h]; rfl

theorem reflect_x {q : Point} (h : q.inf = false) : (reflect q).x = q.x := by
  rw [reflect_of_finite h]
  exact (BitVec.ofNat_toNat 256 q.x).trans (BitVec.setWidth_eq q.x)

theorem reflect_y_toNat {q : Point} (h : q.inf = false) :
    (reflect q).y.toNat = (((Curve.P : Int) - q.y.toNat) % Curve.P).toNat := by
  rw [reflect_of_finite h]
  exact finite_y_toNat _ (lt_coord_of_lt_P (emod_P_lt _))

section Field

-- The field of the residues, and with it the curve's group; `P_prime` gives it to the statements below.
variable [Fact Curve.P.Prime]

/-- No residue has the cube -7: the power `(P - 1)/3` of -7 is not 1. -/
theorem cube_add_seven_ne_zero (x : ZMod Curve.P) : x * x * x + 7 ≠ 0 := by
  intro h
  have h7 : x ^ 3 = ((Curve.P - 7 : Nat) : ZMod Curve.P) := by
    rw [Nat.cast_sub (by decide), ZMod.natCast_self]
    linear_combination h
  have hx : x ≠ 0 := by
    rintro rfl
    rw [zero_pow (by decide), ← Nat.cast_zero, natCast_inj_of_lt P_pos (by decide)] at h7
    exact absurd h7 (by decide)
  have hpow : ((modexp (Curve.P - 7) ((Curve.P - 1) / 3) Curve.P : Nat) : ZMod Curve.P) = (1 : Nat) := by
    rw [← natCast_pow_eq_modexp, ← h7, ← pow_mul, Nat.cast_one]
    exact ZMod.pow_card_sub_one_eq_one hx
  rw [natCast_inj_of_lt (modexp_lt P_pos) P_prime.one_lt] at hpow
  exact absurd hpow (by decide +kernel)

/-- The curve has no point of order two (R100 (d)). -/
theorem y_ne_zero_of_equation {x y : ZMod Curve.P} (h : residueCurve.Equation x y) : y ≠ 0 := by
  rintro rfl
  refine cube_add_seven_ne_zero x ?_
  rw [← (residueCurve_equation_iff x 0).1 h, mul_zero]

theorem two_ne_zero_P : (2 : ZMod Curve.P) ≠ 0 := by
  rw [← Nat.cast_two, ← Nat.cast_zero, Ne, natCast_inj_of_lt (by decide) P_pos]
  decide

theorem y_ne_neg_of_equation {x y : ZMod Curve.P} (h : residueCurve.Equation x y) : y ≠ -y := by
  intro hy
  refine mul_ne_zero two_ne_zero_P (y_ne_zero_of_equation h) ?_
  linear_combination hy

theorem nonsingular_of_equation {x y : ZMod Curve.P} (h : residueCurve.Equation x y) : residueCurve.Nonsingular x y := by
  rw [WeierstrassCurve.Affine.nonsingular_iff]
  refine ⟨h, .inr ?_⟩
  simpa [residueCurve] using y_ne_neg_of_equation h

/-! ## The slopes -/

theorem residueCurve_slope_self_mul {x y : ZMod Curve.P} (h : residueCurve.Equation x y) :
    residueCurve.slope x x y y * (2 * y) = 3 * x * x := by
  have hne : y ≠ residueCurve.negY x y := by rw [residueCurve_negY]; exact y_ne_neg_of_equation h
  have hden : y - residueCurve.negY x y = 2 * y := by rw [residueCurve_negY]; ring
  rw [WeierstrassCurve.Affine.slope_of_Y_ne rfl hne, hden,
    div_mul_cancel₀ _ (mul_ne_zero two_ne_zero_P (y_ne_zero_of_equation h))]
  simp only [residueCurve]
  ring

theorem residueCurve_slope_mul {x₁ x₂ : ZMod Curve.P} (y₁ y₂ : ZMod Curve.P) (h : x₁ ≠ x₂) :
    residueCurve.slope x₁ x₂ y₁ y₂ * (x₂ - x₁) = y₂ - y₁ := by
  have hdiv := div_mul_cancel₀ (y₁ - y₂) (sub_ne_zero.2 h)
  rw [WeierstrassCurve.Affine.slope_of_X_ne h]
  linear_combination -hdiv

theorem inv_eq_residue_inv {k : Nat} (h : (k : ZMod Curve.P) ≠ 0) :
    ∃ r, inv k Curve.P = .ok r ∧ (r : ZMod Curve.P) = (k : ZMod Curve.P)⁻¹ := by
  have hk : k % Curve.P ≠ 0 := by rwa [Ne, ← Nat.dvd_iff_mod_eq_zero, ← ZMod.natCast_eq_zero_iff]
  obtain ⟨r, hr, -, hmul⟩ := inv_P hk
  refine ⟨r, hr, eq_inv_of_mul_eq_one_right ?_⟩
  rw [← Nat.cast_mul, ← ZMod.natCast_mod, hmul, Nat.cast_one]

/-- On a point of the curve the tangent's slope exists, since `y` is not 0. -/
theorem tangentSlope_eq_slope {x y : Nat} (h : residueCurve.Equation (x : ZMod Curve.P) y) :
    ∃ m, tangentSlope x y = .ok m ∧ (m : ZMod Curve.P) = residueCurve.slope (x : ZMod Curve.P) x y y := by
  have hcast : ((2 * y % Curve.P : Nat) : ZMod Curve.P) = 2 * y := by
    rw [ZMod.natCast_mod, Nat.cast_mul, Nat.cast_two]
  have hne : (2 * y : ZMod Curve.P) ≠ 0 := mul_ne_zero two_ne_zero_P (y_ne_zero_of_equation h)
  obtain ⟨d, hd, hinv⟩ := inv_eq_residue_inv (k := 2 * y % Curve.P) (by rwa [hcast])
  refine ⟨3 * x * x * d % Curve.P, by rw [tangentSlope, hd]; rfl, ?_⟩
  rw [ZMod.natCast_mod, Nat.cast_mul, hinv, hcast, mul_inv_eq_iff_eq_mul₀ hne, residueCurve_slope_self_mul h]
  push_cast
  rfl

theorem secantSlope_eq_slope {x₁ x₂ : Nat} (y₁ y₂ : Nat) (h : (x₁ : ZMod Curve.P) ≠ x₂) :
    ∃ m, secantSlope x₁ y₁ x₂ y₂ = .ok m ∧ (m : ZMod Curve.P) = residueCurve.slope (x₁ : ZMod Curve.P) x₂ y₁ y₂ := by
  have hcast := intCast_emod_P ((x₂ : Int) - x₁)
  push_cast at hcast
  have hne : (x₂ : ZMod Curve.P) - x₁ ≠ 0 := sub_ne_zero.2 h.symm
  obtain ⟨d, hd, hinv⟩ := inv_eq_residue_inv (k := (((x₂ : Int) - x₁) % (Curve.P : Int)).toNat) (by rwa [hcast])
  refine ⟨(((y₂ : Int) - y₁) % Curve.P).toNat * d % Curve.P, by rw [secantSlope, hd]; rfl, ?_⟩
  rw [ZMod.natCast_mod, Nat.cast_mul, intCast_emod_P, hinv, hcast, mul_inv_eq_iff_eq_mul₀ hne,
    residueCurve_slope_mul _ _ h]
  push_cast
  rfl

/-! ## `pointAdd` through a slope (R92) -/

/-- On the curve's finite points that are not opposite, `pointAdd` takes the chord of the curve's slope. -/
theorem pointAdd_of_not_opposite {q r : Point} (hq : q.inf = false) (hr : r.inf = false) (hqx : q.x.toNat < Curve.P)
    (hrx : r.x.toNat < Curve.P) (he : q.Equation) (hy : q.x.toNat = r.x.toNat → q.y.toNat = r.y.toNat) :
    ∃ m : Nat, pointAdd q r = .ok (chordPoint m q.x.toNat q.y.toNat r.x.toNat) ∧
      (m : ZMod Curve.P) = residueCurve.slope (q.x.toNat : ZMod Curve.P) r.x.toNat q.y.toNat r.y.toNat := by
  by_cases hx : q.x.toNat = r.x.toNat
  · obtain ⟨m, hm, hslope⟩ := tangentSlope_eq_slope ((equation_iff_residueCurve q).1 he)
    refine ⟨m, ?_, by rw [← hx, ← hy hx, hslope]⟩
    simp [pointAdd, hq, hr, ← hx, ← hy hx, hm, bind, Except.bind, pure, Except.pure]
  · obtain ⟨m, hm, hslope⟩ := secantSlope_eq_slope q.y.toNat r.y.toNat
      (mt (natCast_inj_of_lt hqx hrx).1 hx)
    refine ⟨m, ?_, hslope⟩
    simp [pointAdd, hq, hr, hx, hm, bind, Except.bind, pure, Except.pure]

/-! ## The group elements that point values stand for -/

/-- `q` is a value of the group element `g`: Infinity, whatever the coordinates hold (R14), for the zero, and reduced
coordinates for any other. -/
def Denotes (q : Point) : residueCurve.Point → Prop
  | .zero => q.inf = true
  | .some x y _ => q.inf = false ∧ q.x.toNat < Curve.P ∧ q.y.toNat < Curve.P ∧
      (q.x.toNat : ZMod Curve.P) = x ∧ (q.y.toNat : ZMod Curve.P) = y

theorem denotes_zero_iff {q : Point} : Denotes q 0 ↔ q.inf = true := Iff.rfl

/-- R99's members are the values of the group's elements. -/
theorem member_iff_exists_denotes {q : Point} : q.Member ↔ ∃ g, Denotes q g := by
  constructor
  · intro h
    cases hi : q.inf with
    | true => exact ⟨0, hi⟩
    | false =>
      obtain hinf | ⟨hx, hy, he⟩ := h
      · rw [hi] at hinf; cases hinf
      · exact ⟨.some _ _ (nonsingular_of_equation ((equation_iff_residueCurve q).1 he)), hi, hx, hy, rfl, rfl⟩
  · rintro ⟨_ | ⟨x, y, h⟩, hg⟩
    · exact .inl hg
    · obtain ⟨-, hx, hy, rfl, rfl⟩ := hg
      exact .inr ⟨hx, hy, (equation_iff_residueCurve q).2 h.1⟩

theorem Denotes.member {q : Point} {g : residueCurve.Point} (h : Denotes q g) : q.Member :=
  member_iff_exists_denotes.2 ⟨g, h⟩

theorem Denotes.canonical {q : Point} {g : residueCurve.Point} (h : Denotes q g) : Denotes q.canonical g := by
  cases g with
  | zero => simp [Point.canonical, Point.infinity, Denotes, denotes_zero_iff.1 h]
  | some x y hxy => rwa [Point.canonical, h.1]

/-- Only Infinity has several values, and one of them is canonical. -/
theorem Denotes.canonical_eq {q r : Point} {g : residueCurve.Point} (hq : Denotes q g) (hr : Denotes r g) :
    q.canonical = r.canonical := by
  cases g with
  | zero => rw [canonical_of_inf hq, canonical_of_inf hr]
  | some x y hxy =>
    obtain ⟨hqi, hqx, hqy, rfl, rfl⟩ := hq
    obtain ⟨hri, hrx, hry, hx, hy⟩ := hr
    have hx := BitVec.eq_of_toNat_eq ((natCast_inj_of_lt hrx hqx).1 hx)
    have hy := BitVec.eq_of_toNat_eq ((natCast_inj_of_lt hry hqy).1 hy)
    obtain ⟨_, _, _⟩ := q
    obtain ⟨_, _, _⟩ := r
    simp_all

/-- `r` succeeds with the canonical value of `g`. -/
def Produces (r : Except FaultCode Point) (g : residueCurve.Point) : Prop :=
  ∃ v, r = .ok v ∧ v.canonical = v ∧ Denotes v g

theorem Denotes.produces_canonical {q : Point} {g : residueCurve.Point} (h : Denotes q g) :
    Produces (.ok q.canonical) g := ⟨_, rfl, canonical_canonical q, h.canonical⟩

theorem produces_infinity : Produces (.ok Point.infinity) 0 := ⟨_, rfl, rfl, rfl⟩

theorem Produces.eq {r r' : Except FaultCode Point} {g : residueCurve.Point} (h : Produces r g) (h' : Produces r' g) :
    r = r' := by
  obtain ⟨v, rfl, hv, hg⟩ := h
  obtain ⟨v', rfl, hv', hg'⟩ := h'
  rw [← hv, ← hv', hg.canonical_eq hg']

theorem Produces.bind {r : Except FaultCode Point} {f : Point → Except FaultCode Point} {g g' : residueCurve.Point}
    (h : Produces r g) (hf : ∀ v, Produces (.ok v) g → Produces (f v) g') : Produces (r >>= f) g' := by
  obtain ⟨v, rfl, hv⟩ := h
  exact hf v ⟨v, rfl, hv⟩

theorem Produces.denotes {v : Point} {g : residueCurve.Point} (h : Produces (.ok v) g) : Denotes v g := by
  obtain ⟨w, hw, -, hg⟩ := h
  cases hw
  exact hg

/-! ## The commuting lemmas -/

/-- R92 is the addition of the curve's group. -/
theorem produces_pointAdd {q r : Point} {g h : residueCurve.Point} (hq : Denotes q g) (hr : Denotes r h) :
    Produces (pointAdd q r) (g + h) := by
  match g, h, hq, hr with
  | .zero, h, hq, hr =>
    rw [pointAdd_of_inf_left r hq]
    exact (zero_add h).symm ▸ hr.produces_canonical
  | .some x y hxy, .zero, hq, hr =>
    rw [pointAdd_of_inf_right q hr]
    exact hq.produces_canonical
  | .some _ _ hg, .some _ _ hh, ⟨hqi, hqx, hqy, rfl, rfl⟩, ⟨hri, hrx, hry, rfl, rfl⟩ =>
    by_cases hopp : q.x.toNat = r.x.toNat ∧ q.y.toNat ≠ r.y.toNat
    · have hx := (natCast_inj_of_lt hqx hrx).2 hopp.1
      have hneg := WeierstrassCurve.Affine.Y_eq_of_X_eq hg.1 hh.1 hx
      rw [pointAdd_of_opposite hqi hri hopp.1 hopp.2, WeierstrassCurve.Affine.Point.add_of_Y_eq hx
        (hneg.resolve_left (mt (natCast_inj_of_lt hqy hry).1 hopp.2))]
      exact produces_infinity
    · have hsame : q.x.toNat = r.x.toNat → q.y.toNat = r.y.toNat := 
        fun hx => by_contra fun hy => hopp ⟨hx, hy⟩
      obtain ⟨m, hm, hslope⟩ := pointAdd_of_not_opposite hqi hri hqx hrx ((equation_iff_residueCurve q).2 hg.1) hsame
      have hne : ¬((q.x.toNat : ZMod Curve.P) = r.x.toNat ∧
          (q.y.toNat : ZMod Curve.P) = residueCurve.negY r.x.toNat r.y.toNat) := by
        rintro ⟨hx, hy⟩
        rw [residueCurve_negY, hsame ((natCast_inj_of_lt hqx hrx).1 hx)] at hy
        exact y_ne_neg_of_equation hh.1 hy
      rw [hm, WeierstrassCurve.Affine.Point.add_some hne]
      refine ⟨_, rfl, rfl, rfl, chordPoint_x_lt .., chordPoint_y_lt .., ?_, ?_⟩
      · rw [chordPoint_x_residue, hslope]
      · rw [chordPoint_y_residue, hslope]

/-- R94 is the negation of the curve's group. -/
theorem denotes_reflect {q : Point} {g : residueCurve.Point} (h : Denotes q g) : Denotes (reflect q) (-g) := by
  match g, h with
  | .zero, h => rw [reflect_of_inf h]; rfl
  | .some _ _ hg, ⟨hi, hx, hy, rfl, rfl⟩ =>
    rw [WeierstrassCurve.Affine.Point.neg_some]
    refine ⟨reflect_inf hi, by rwa [reflect_x hi], ?_, by rw [reflect_x hi], ?_⟩
    · rw [reflect_y_toNat hi]
      exact emod_P_lt _
    · rw [reflect_y_toNat hi, intCast_emod_P, residueCurve_negY]
      push_cast
      rw [ZMod.natCast_self, zero_sub]

/-! ## The three ways to multiply (R93, R100 (b)) -/

/-- The loop of R93 from the running point `g`: after the bits below `i` it is `2^i` times `g` and as many `a` as these
bits say. -/
theorem produces_pointMulLoop {q : Point} {a : residueCurve.Point} (k : Nat) (hq : Denotes q a) (i : Nat) :
    ∀ {r : Point} {g : residueCurve.Point}, Produces (.ok r) g →
      Produces (pointMulLoop k q i r) (2 ^ i • g + (k % 2 ^ i) • a) := by
  induction i with
  | zero =>
    intro r g hr
    rw [pow_zero, one_nsmul, Nat.mod_one, zero_nsmul, add_zero]
    exact hr
  | succ i ih =>
    intro r g hr
    have hsum : 2 ^ (i + 1) • g + (k % 2 ^ (i + 1)) • a =
        2 ^ i • (g + g + (k.testBit i).toNat • a) + (k % 2 ^ i) • a := by
      rw [Nat.mod_pow_succ, ← Nat.toNat_testBit]
      module
    rw [hsum, pointMulLoop_succ]
    refine (produces_pointAdd hr.denotes hr.denotes).bind fun d hd => Produces.bind ?_ fun _ hr' => ih hr'
    cases k.testBit i with
    | false => simpa using hd
    | true => simpa using produces_pointAdd hd.denotes hq

/-- R93 is the multiple of the curve's group. -/
theorem produces_pointMul {q : Point} {a : residueCurve.Point} (k : Nat) (hq : Denotes q a) :
    Produces (pointMul k q) (k • a) := by
  have h := produces_pointMulLoop k hq (bitlen k) produces_infinity
  rwa [nsmul_zero, zero_add, Nat.mod_eq_of_lt (lt_two_pow_bitlen k)] at h

theorem produces_foldAdd {q : Point} {a : residueCurve.Point} (k : Nat) (hq : Denotes q a) :
    Produces (foldAdd q k) (k • a) := by
  induction k with
  | zero => exact (zero_nsmul a).symm ▸ produces_infinity
  | succ k ih =>
    rw [succ_nsmul]
    exact ih.bind fun _ hr => produces_pointAdd hr.denotes hq

/-- The loop of R100 (b) with `k` still to be added, in multiples of the point `a` that doubles from bit to bit. -/
theorem produces_lsbMulLoop (i : Nat) : ∀ {k : Nat} {r q : Point} {g a : residueCurve.Point}, k < 2 ^ i →
    Produces (.ok r) g → Denotes q a → Produces (lsbMulLoop i k r q) (g + k • a) := by
  induction i with
  | zero =>
    intro k r q g a hk hr _
    rw [Nat.lt_one_iff.1 hk, zero_nsmul, add_zero]
    exact hr
  | succ i ih =>
    intro k r q g a hk hr hq
    have hk' : k / 2 < 2 ^ i := by rw [pow_succ] at hk; omega
    have hsum : g + k • a = g + (k % 2) • a + (k / 2) • (a + a) := by
      conv_lhs => rw [← Nat.mod_add_div k 2]
      module
    rw [hsum, lsbMulLoop_succ]
    refine Produces.bind (g := g + (k % 2) • a) ?_ fun r' hr' => (produces_pointAdd hq hq).bind fun q' hq' =>
      ih hk' hr' hq'.denotes
    rcases Nat.mod_two_eq_zero_or_one k with h | h
    · simpa [h] using hr
    · simpa [h] using produces_pointAdd hr.denotes hq

theorem produces_lsbMul {q : Point} {a : residueCurve.Point} (k : Nat) (hq : Denotes q a) :
    Produces (lsbMul k q) (k • a) := by
  have h := produces_lsbMulLoop (bitlen k) (lt_two_pow_bitlen k) produces_infinity hq
  rwa [zero_add] at h

end Field

end Sys2Proof.Machine

/-! SUPPORT. Proofs of the statements of spec/41_ec.md: those about the point functions by way of the curve's group, and
those about the commands, which are the check of R90 followed by a point function. -/

namespace Sys2Proof.Machine

/-! ## The operand check as the statements word it (R90) -/

theorem forall_mem_pair {p : Point → Prop} {a b : Point} : (∀ q ∈ [a, b], p q) ↔ p a ∧ p b := by simp

theorem exists_mem_pair {p : Point → Prop} {a b : Point} : (∃ q ∈ [a, b], p q) ↔ p a ∨ p b := by simp

theorem checkPoints_of_rangeBad {qs : List Point} (h : ∃ q ∈ qs, q.RangeBad) :
    checkPoints qs = .error .operandRange := by
  obtain ⟨q, hq, hbad⟩ := h
  exact if_pos (List.any_eq_true.2 ⟨q, hq, (outOfRange_iff q).2 hbad⟩)

theorem checkPoints_of_equationBad {qs : List Point} (hr : ∀ q ∈ qs, ¬ q.RangeBad) (h : ∃ q ∈ qs, q.EquationBad) :
    checkPoints qs = .error .invalidPoint := by
  obtain ⟨q, hq, hbad⟩ := h
  have hrange : ¬ qs.any Point.outOfRange := by
    rw [List.any_eq_true]
    rintro ⟨q', hq', hout⟩
    exact hr q' hq' ((outOfRange_iff q').1 hout)
  exact (if_neg hrange).trans (if_pos (List.any_eq_true.2 ⟨q, hq, (offCurve_iff q).2 hbad⟩))

theorem checkPoints_of_member {qs : List Point} (h : ∀ q ∈ qs, q.Member) : checkPoints qs = .ok () :=
  checkPoints_ok fun q hq => (isMember_iff q).2 (h q hq)

/-- A point result that the check of `qs` guards: the form of PADD, PDBL, PNEG and PMUL. -/
def finishChecked (s : State) (pd : PReg) (qs : List Point) (r : Except FaultCode Point) : Out :=
  finishP s pd (checkPoints qs >>= fun _ => r)

section Checked

variable (s : State) (pd : PReg) {qs : List Point} {r : Except FaultCode Point}

theorem finishChecked_of_rangeBad (h : ∃ q ∈ qs, q.RangeBad) :
    ∃ t, finishChecked s pd qs r = .next t ∧ Faulted s t .operandRange := by
  rw [finishChecked, checkPoints_of_rangeBad h]
  exact finishP_error s pd _

theorem finishChecked_of_equationBad (hr : ∀ q ∈ qs, ¬ q.RangeBad) (h : ∃ q ∈ qs, q.EquationBad) :
    ∃ t, finishChecked s pd qs r = .next t ∧ Faulted s t .invalidPoint := by
  rw [finishChecked, checkPoints_of_equationBad hr h]
  exact finishP_error s pd _

theorem finishChecked_of_member {v : Point} (hv : r = .ok v) (h : ∀ q ∈ qs, q.Member) :
    ∃ t, finishChecked s pd qs r = .next t ∧ WroteP s t pd v := by
  rw [finishChecked, checkPoints_of_member h, hv]
  exact finishP_ok s pd v

end Checked

theorem exec_padd (pd pa pb : PReg) (s : State) : exec (.padd pd pa pb) s =
    finishChecked s pd [s.readP pa, s.readP pb] (pointAdd (s.readP pa) (s.readP pb)) := rfl

theorem exec_pdbl (pd pa : PReg) (s : State) : exec (.pdbl pd pa) s =
    finishChecked s pd [s.readP pa] (pointAdd (s.readP pa) (s.readP pa)) := rfl

theorem exec_pneg (pd pa : PReg) (s : State) : exec (.pneg pd pa) s =
    finishChecked s pd [s.readP pa] (.ok (reflect (s.readP pa))) := rfl

theorem exec_pmul_of_illegal (pd pa : PReg) {bk : BReg} {s : State} (h : s.readB bk = 0 ∨ Curve.N ≤ s.readB bk) :
    exec (.pmul pd pa bk) s = finishP s pd (.error .invalidScalar) :=
  congrArg (finishP s pd) (if_pos h)

theorem exec_pmul_of_legal (pd pa : PReg) {bk : BReg} {s : State} (h0 : 0 < s.readB bk) (hN : s.readB bk < Curve.N) :
    exec (.pmul pd pa bk) s = finishChecked s pd [s.readP pa] (pointMul (s.readB bk) (s.readP pa)) :=
  congrArg (finishP s pd) (if_neg (by omega))

/-! ## The statements about the group (R92, R100) -/

/-- Settles O24: each function answers a value of a group element, and these values are the members. -/
theorem pointResultsStayOnTheCurve : Obligations.PointResultsStayOnTheCurve := by
  unfold Obligations.PointResultsStayOnTheCurve
  intro q r hq hr
  have : Fact Curve.P.Prime := ⟨P_prime⟩
  obtain ⟨a, ha⟩ := member_iff_exists_denotes.1 hq
  obtain ⟨b, hb⟩ := member_iff_exists_denotes.1 hr
  refine ⟨?_, (denotes_reflect ha).member, fun k => ?_⟩
  · obtain ⟨v, hv, -, hd⟩ := produces_pointAdd ha hb
    exact ⟨v, hv, hd.member⟩
  · obtain ⟨v, hv, -, hd⟩ := produces_pointMul k ha
    exact ⟨v, hv, hd.member⟩

/-- Settles O25: both sides answer the canonical value of the same multiple. -/
theorem pointMulIsTheRepeatedSum : Obligations.PointMulIsTheRepeatedSum := by
  unfold Obligations.PointMulIsTheRepeatedSum
  intro k q hq
  have : Fact Curve.P.Prime := ⟨P_prime⟩
  obtain ⟨a, ha⟩ := member_iff_exists_denotes.1 hq
  exact (produces_pointMul k ha).eq (produces_foldAdd k ha)

/-- The repeated sum of one point is the point (R98). -/
theorem pointMul_one {q : Point} (hq : q.Member) : pointMul 1 q = .ok q.canonical := by
  rw [pointMulIsTheRepeatedSum 1 q hq]
  exact pointAdd_of_inf_left (q := Point.infinity) q rfl

/-- Settles O26: both loops answer the canonical value of the same multiple. -/
theorem scalarBitOrderIsImmaterial : Obligations.ScalarBitOrderIsImmaterial := by
  unfold Obligations.ScalarBitOrderIsImmaterial
  intro k q hq
  have : Fact Curve.P.Prime := ⟨P_prime⟩
  obtain ⟨a, ha⟩ := member_iff_exists_denotes.1 hq
  exact (produces_lsbMul k ha).eq (produces_pointMul k ha)

/-- Settles O27: the multiples by `d` and by `e` of one element of a commutative group commute. -/
theorem scalarMultiplicationCommutes : Obligations.ScalarMultiplicationCommutes := by
  unfold Obligations.ScalarMultiplicationCommutes
  intro d e q hq
  have : Fact Curve.P.Prime := ⟨P_prime⟩
  obtain ⟨a, ha⟩ := member_iff_exists_denotes.1 hq
  obtain ⟨v, hv, -, hvd⟩ := produces_pointMul d ha
  obtain ⟨w, hw, -, hwe⟩ := produces_pointMul e ha
  obtain ⟨x, hx, hxd⟩ := produces_pointMul e hvd
  have hev : Produces (pointMul e v) (e • d • a) := ⟨x, hx, hxd⟩
  have hdw : Produces (pointMul d w) (e • d • a) := smul_comm d e a ▸ produces_pointMul d hwe
  exact ⟨v, w, x, hv, hw, hx, hdw.eq hev ▸ hx⟩

/-- Settles O22: the slope's congruence is its definition as a quotient of residues, cleared of the denominator, which is
not 0. -/
theorem pointAddIsChordAndTangent : Obligations.PointAddIsChordAndTangent := by
  unfold Obligations.PointAddIsChordAndTangent
  intro q r hq hr
  have : Fact Curve.P.Prime := ⟨P_prime⟩
  refine ⟨pointAdd_of_inf_left r, pointAdd_of_inf_right q, fun hqi hri hx hy => ?_, fun hqi hri hxy => ?_⟩
  · exact pointAdd_of_opposite hqi hri (congrArg _ hx) (mt BitVec.eq_of_toNat_eq hy)
  obtain ⟨hqx, -, he⟩ := hq.of_finite hqi
  obtain ⟨hrx, -, -⟩ := hr.of_finite hri
  obtain ⟨m, hm, hslope⟩ := pointAdd_of_not_opposite hqi hri hqx hrx he
    fun h => congrArg _ (hxy (BitVec.eq_of_toNat_eq h))
  have hcurve := (equation_iff_residueCurve q).1 he
  refine ⟨m, _, hm, rfl, chordPoint_x_lt .., chordPoint_y_lt .., fun hx => ?_, fun hx => ?_, ?_, ?_⟩
  all_goals rw [← ZMod.intCast_eq_intCast_iff]; push_cast
  · rw [hslope, ← hx, ← hxy hx]
    exact residueCurve_slope_self_mul hcurve
  · rw [hslope]
    exact residueCurve_slope_mul _ _ (mt (natCast_inj_of_lt hqx hrx).1 (mt BitVec.eq_of_toNat_eq hx))
  · rw [chordPoint_x_residue, residueCurve_addX]
  · rw [chordPoint_y_residue, chordPoint_x_residue, residueCurve_addY, residueCurve_addX]

/-- Settles O23: the group's laws for zero and for the negative. -/
theorem groupIdentityLaws : Obligations.GroupIdentityLaws := by
  unfold Obligations.GroupIdentityLaws
  intro q hq
  have : Fact Curve.P.Prime := ⟨P_prime⟩
  obtain ⟨a, ha⟩ := member_iff_exists_denotes.1 hq
  refine ⟨pointAdd_of_inf_left q rfl, Produces.eq (g := 0) ?_ produces_infinity⟩
  exact add_neg_cancel a ▸ produces_pointAdd ha (denotes_reflect ha)

/-! ## The statements about the commands (R95 to R99) -/

/-- Settles O17: the check's three outcomes on the two operands, and on members the sum. -/
theorem paddAddsOrFaults : Obligations.PaddAddsOrFaults := by
  unfold Obligations.PaddAddsOrFaults
  intro s pd pa pb
  rw [exec_padd]
  refine ⟨Laws.decodeReadsEncodedCommand (.padd pd pa pb) rfl, fun h => ?_, fun ha hb h => ?_, fun ha hb => ?_⟩
  · exact finishChecked_of_rangeBad s pd (exists_mem_pair.2 h)
  · exact finishChecked_of_equationBad s pd (forall_mem_pair.2 ⟨ha, hb⟩) (exists_mem_pair.2 h)
  · obtain ⟨⟨v, hv, -⟩, -, -⟩ := pointResultsStayOnTheCurve _ _ ha hb
    obtain ⟨t, ht, hw⟩ := finishChecked_of_member s pd hv (forall_mem_pair.2 ⟨ha, hb⟩)
    exact ⟨t, v, ht, hv, hw⟩

/-- Settles O18: the check's three outcomes on the operand, and on a member the double. -/
theorem pdblDoublesOrFaults : Obligations.PdblDoublesOrFaults := by
  unfold Obligations.PdblDoublesOrFaults
  intro s pd pa
  rw [exec_pdbl]
  refine ⟨Laws.decodeReadsEncodedCommand (.pdbl pd pa) rfl, fun h => ?_, fun ha h => ?_, fun ha => ?_⟩
  · exact finishChecked_of_rangeBad s pd ⟨_, List.mem_singleton_self _, h⟩
  · exact finishChecked_of_equationBad s pd (List.forall_mem_singleton.2 ha) ⟨_, List.mem_singleton_self _, h⟩
  · obtain ⟨⟨v, hv, -⟩, -, -⟩ := pointResultsStayOnTheCurve _ _ ha ha
    obtain ⟨t, ht, hw⟩ := finishChecked_of_member s pd hv (List.forall_mem_singleton.2 ha)
    exact ⟨t, v, ht, hv, hw⟩

/-- Settles O19: the check's three outcomes on the operand, and on a member the reflection, whose `y` is a natural
difference because a member's `y` is below `P`. -/
theorem pnegReflectsOrFaults : Obligations.PnegReflectsOrFaults := by
  unfold Obligations.PnegReflectsOrFaults
  intro s pd pa
  rw [exec_pneg]
  refine ⟨Laws.decodeReadsEncodedCommand (.pneg pd pa) rfl, fun h => ?_, fun ha h => ?_, fun hi => ?_,
    fun hi ha => ?_⟩
  · exact finishChecked_of_rangeBad s pd ⟨_, List.mem_singleton_self _, h⟩
  · exact finishChecked_of_equationBad s pd (List.forall_mem_singleton.2 ha) ⟨_, List.mem_singleton_self _, h⟩
  · rw [reflect_of_inf hi]
    exact finishChecked_of_member s pd rfl (List.forall_mem_singleton.2 (.inl hi))
  · obtain ⟨t, ht, hw⟩ := finishChecked_of_member s pd rfl (List.forall_mem_singleton.2 ha)
    obtain ⟨-, hy, -⟩ := ha.of_finite hi
    refine ⟨t, _, ht, hw, reflect_inf hi, reflect_x hi, ?_⟩
    rw [reflect_y_toNat hi, ← Int.natCast_sub hy.le, ← Int.natCast_mod, Int.toNat_natCast]

/-- Settles O20: the scalar's test, the check's three outcomes, and on a member the multiple; the multiple by 1 is
one addition to Infinity. -/
theorem pmulMultipliesOrFaults : Obligations.PmulMultipliesOrFaults := by
  unfold Obligations.PmulMultipliesOrFaults
  intro s pd pa bk
  refine ⟨Laws.decodeReadsEncodedCommand (.pmul pd pa bk) rfl, fun h => ?_, fun h0 hN h => ?_, fun h0 hN ha h => ?_,
    fun h0 hN ha => ?_⟩
  · rw [exec_pmul_of_illegal pd pa h]
    exact finishP_error s pd _
  · rw [exec_pmul_of_legal pd pa h0 hN]
    exact finishChecked_of_rangeBad s pd ⟨_, List.mem_singleton_self _, h⟩
  · rw [exec_pmul_of_legal pd pa h0 hN]
    exact finishChecked_of_equationBad s pd (List.forall_mem_singleton.2 ha) ⟨_, List.mem_singleton_self _, h⟩
  · rw [exec_pmul_of_legal pd pa h0 hN]
    obtain ⟨-, -, hmul⟩ := pointResultsStayOnTheCurve _ _ ha ha
    obtain ⟨v, hv, hmem⟩ := hmul (s.readB bk)
    obtain ⟨t, ht, hw⟩ := finishChecked_of_member s pd hv (List.forall_mem_singleton.2 ha)
    refine ⟨t, v, ht, hv, hw, hmem, fun h1 => ?_⟩
    rw [h1, pointMul_one ha] at hv
    exact (Except.ok.inj hv).symm

/-- Settles O21: the bit that PCHK writes is the test of membership. -/
theorem pchkTestsMembership : Obligations.PchkTestsMembership := by
  unfold Obligations.PchkTestsMembership
  intro pa
  exact ⟨Laws.decodeReadsEncodedCommand (.pchk pa) rfl,
    fun s => ⟨_, _, rfl, wroteT_complete s (s.readP pa).isMember, isMember_iff (s.readP pa)⟩⟩

end Sys2Proof.Machine

/-! SUPPORT. Proofs of the statements of spec/42_mod.md: each command is one result behind the test of its modulus
(R117 (3)), and the results of MINV and MEXP are what Laws/Integer.lean says of `inv` and `modexp`. -/

namespace Sys2Proof.Machine

/-! ## A result behind the test of the modulus (R117) -/

theorem withModulus_zero (r : Except FaultCode Nat) : withModulus 0 r = .error .operandRange := if_pos rfl

theorem withModulus_of_ne_zero {m : Nat} (hm : m ≠ 0) (r : Except FaultCode Nat) : withModulus m r = r := if_neg hm

section Modulus

variable (s : State) (bd : BReg) {m : Nat}

theorem finishB_modulus_zero (r : Except FaultCode Nat) (hm : m = 0) :
    ∃ t, finishB s bd (withModulus m r) = .next t ∧ Faulted s t .operandRange := by
  rw [hm, withModulus_zero]
  exact finishB_error s bd _

theorem finishB_modulus_error {r : Except FaultCode Nat} {c : FaultCode} (hm : m ≠ 0) (hr : r = .error c) :
    ∃ t, finishB s bd (withModulus m r) = .next t ∧ Faulted s t c := by
  rw [withModulus_of_ne_zero hm, hr]
  exact finishB_error s bd c

theorem finishB_modulus_ok {r : Except FaultCode Nat} {v : Nat} (hm : m ≠ 0) (hr : r = .ok v) :
    ∃ t, finishB s bd (withModulus m r) = .next t ∧ WroteB s t bd v := by
  rw [withModulus_of_ne_zero hm, hr]
  exact finishB_ok s bd v

end Modulus

theorem exec_mred (bd ba bm : BReg) (s : State) : exec (.mred bd ba bm) s =
    finishB s bd (withModulus (s.readB bm) (.ok (s.readB ba % s.readB bm))) := rfl

theorem exec_mmul (bd ba bb bm : BReg) (s : State) : exec (.mmul bd ba bb bm) s =
    finishB s bd (withModulus (s.readB bm) (.ok (s.readB ba * s.readB bb % s.readB bm))) := rfl

theorem exec_minv (bd bk bm : BReg) (s : State) : exec (.minv bd bk bm) s =
    finishB s bd (withModulus (s.readB bm) (inv (s.readB bk) (s.readB bm))) := rfl

theorem exec_mexp (bd bb be bm : BReg) (s : State) : exec (.mexp bd bb be bm) s =
    finishB s bd (withModulus (s.readB bm) (.ok (modexp (s.readB bb) (s.readB be) (s.readB bm)))) := rfl

/-! ## The outcomes of `inv`, each by its test (R111) -/

theorem inv_of_mod_eq_zero {k m : Nat} (h0 : k % m = 0) : inv k m = .error .divisionByZero := if_pos h0

theorem inv_of_gcd_ne_one {k m : Nat} (hm : m ≠ 0) (h0 : k % m ≠ 0) (hg : Nat.gcd (k % m) m ≠ 1) :
    inv k m = .error .notInvertible := by
  rcases inv_cases k m (Nat.pos_of_ne_zero hm) with ⟨h, -⟩ | ⟨-, -, he⟩ | ⟨-, h, -⟩
  · exact absurd h h0
  · exact he
  · exact absurd h hg

/-- The modulus 1 leaves no non-zero residue, so the product is 1 itself and not only `1 mod m`. -/
theorem inv_of_gcd_eq_one {k m : Nat} (hm : m ≠ 0) (h0 : k % m ≠ 0) (hg : Nat.gcd (k % m) m = 1) :
    ∃ r, inv k m = .ok r ∧ r < m ∧ k * r % m = 1 := by
  have hm1 : m ≠ 1 := fun h => h0 (h ▸ Nat.mod_one k)
  rcases inv_cases k m (Nat.pos_of_ne_zero hm) with ⟨h, -⟩ | ⟨-, h, -⟩ | ⟨-, -, r, he, hlt, hmul⟩
  · exact absurd h h0
  · exact absurd hg h
  · exact ⟨r, he, hlt, hmul.trans (Nat.mod_eq_of_lt (by omega))⟩

/-! ## The statements of spec/42_mod.md -/

/-- Settles O30: the modulus' test, then the outcomes of `inv` in its own order. -/
theorem minvInvertsOrFaults : Obligations.MinvInvertsOrFaults := by
  unfold Obligations.MinvInvertsOrFaults
  intro bd bk bm
  refine ⟨Laws.decodeReadsEncodedCommand (.minv bd bk bm) rfl, fun s => ?_⟩
  rw [exec_minv]
  refine ⟨finishB_modulus_zero s bd _, fun hm h0 => ?_, fun hm h0 hg => ?_, fun hm h0 hg => ?_⟩
  · exact finishB_modulus_error s bd hm (inv_of_mod_eq_zero h0)
  · exact finishB_modulus_error s bd hm (inv_of_gcd_ne_one hm h0 hg)
  · obtain ⟨r, hr, hlt, hmul⟩ := inv_of_gcd_eq_one hm h0 hg
    obtain ⟨t, ht, hw⟩ := finishB_modulus_ok s bd hm hr
    exact ⟨t, r, ht, hw, hlt, hmul⟩

/-- Settles O31: the square-and-multiply loop is the power (`modexp_eq`), behind the modulus' test. -/
theorem mexpIsThePower : Obligations.MexpIsThePower := by
  unfold Obligations.MexpIsThePower
  intro bd bb be bm
  refine ⟨Laws.decodeReadsEncodedCommand (.mexp bd bb be bm) rfl, fun s => ?_⟩
  rw [exec_mexp, modexp_eq]
  exact ⟨finishB_modulus_zero s bd _, fun hm => finishB_modulus_ok s bd hm rfl⟩

/-- Settles O28: the residue is the result behind the modulus' test. -/
theorem mredReduces : Obligations.MredReduces := by
  unfold Obligations.MredReduces
  intro bd ba bm
  refine ⟨Laws.decodeReadsEncodedCommand (.mred bd ba bm) rfl, fun s => ?_⟩
  rw [exec_mred]
  exact ⟨finishB_modulus_zero s bd _, fun hm => finishB_modulus_ok s bd hm rfl⟩

/-- Settles O29: the residue of the exact product is the result behind the modulus' test. -/
theorem mmulMultiplies : Obligations.MmulMultiplies := by
  unfold Obligations.MmulMultiplies
  intro bd ba bb bm
  refine ⟨Laws.decodeReadsEncodedCommand (.mmul bd ba bb bm) rfl, fun s => ?_⟩
  rw [exec_mmul]
  exact ⟨finishB_modulus_zero s bd _, fun hm => finishB_modulus_ok s bd hm rfl⟩

end Sys2Proof.Machine

/-! SUPPORT. Proofs of the statements of spec/43_rabin.md: each command is one result behind the tests of its operands,
what QRT tests is Euler's criterion, and the root of a Blum prime squares to the number that passes it. -/

namespace Sys2Proof.Machine

/-! ## The results behind the tests of the operands (R125 to R129) -/

theorem blum_iff {p : Nat} : blum p = true ↔ p % 4 = 3 := beq_iff_eq

theorem exec_qrt_of_illegal (ba : BReg) {bp : BReg} {s : State} (h : s.readB bp < 3 ∨ s.readB bp % 2 = 0) :
    exec (.qrt ba bp) s = finishT s (.error .operandRange) :=
  congrArg (finishT s) (if_pos h)

theorem exec_qrt_of_legal (ba : BReg) {bp : BReg} {s : State} (h3 : 3 ≤ s.readB bp) (h2 : s.readB bp % 2 = 1) :
    exec (.qrt ba bp) s = finishT s (.ok (s.readB ba % s.readB bp == 0 ||
      modexp (s.readB ba) ((s.readB bp - 1) / 2) (s.readB bp) == 1)) :=
  congrArg (finishT s) (if_neg (by omega))

theorem exec_bsqrt_of_not_blum (bd ba : BReg) {bp : BReg} {s : State} (h : s.readB bp % 4 ≠ 3) :
    exec (.bsqrt bd ba bp) s = finishB s bd (.error .invalidKeyPair) :=
  congrArg (finishB s bd) (if_neg (mt blum_iff.1 h))

theorem exec_bsqrt_of_blum (bd ba : BReg) {bp : BReg} {s : State} (h : s.readB bp % 4 = 3) :
    exec (.bsqrt bd ba bp) s = finishB s bd (.ok (modexp (s.readB ba) ((s.readB bp + 1) / 4) (s.readB bp))) :=
  congrArg (finishB s bd) (if_pos (blum_iff.2 h))

theorem exec_rvfy_of_zero (bs bh : BReg) {bn : BReg} {s : State} (h : s.readB bn = 0) :
    exec (.rvfy bs bh bn) s = finishT s (.error .operandRange) :=
  congrArg (finishT s) (if_pos h)

theorem exec_rvfy_of_ne_zero (bs bh : BReg) {bn : BReg} {s : State} (h : s.readB bn ≠ 0) :
    exec (.rvfy bs bh bn) s =
      finishT s (.ok (s.readB bs * s.readB bs % s.readB bn == s.readB bh % s.readB bn)) :=
  congrArg (finishT s) (if_neg h)

/-- RCRT's result at width `W` (R128): its two tests and the CRT sum. -/
def rcrtResult (W h p q : Nat) : Except FaultCode Nat :=
  if W < bitlen (p * q) then .error .operandRange
  else if !blum p || !blum q || p == q then .error .invalidKeyPair
  else .ok ((crtTerm h p q + crtTerm h q p) % (p * q))

theorem exec_rcrt (bd bh bp bq : BReg) (s : State) : exec (.rcrt bd bh bp bq) s =
    finishB s bd (rcrtResult s.cfg.W (s.readB bh) (s.readB bp) (s.readB bq)) := rfl

section Pair

variable {W h p q : Nat}

/-- The pair that RCRT refuses (R128): one of the two is not Blum, or they are equal. -/
abbrev BadPair (p q : Nat) : Prop := p % 4 ≠ 3 ∨ q % 4 ≠ 3 ∨ p = q

theorem BadPair.symm (hpq : BadPair p q) : BadPair q p := by
  rcases hpq with hp | hq | he
  · exact .inr (.inl hp)
  · exact .inl hq
  · exact .inr (.inr he.symm)

theorem badPair_iff : (!blum p || !blum q || p == q) = true ↔ BadPair p q := by
  simp [blum, or_assoc]

theorem rcrtResult_of_wide (hw : 2 ^ W ≤ p * q) : rcrtResult W h p q = .error .operandRange :=
  if_pos (Nat.lt_of_not_le fun hle => hw.not_gt ((bitlen_le_iff _ _).1 hle))

theorem rcrtResult_of_fits (hw : p * q < 2 ^ W) : rcrtResult W h p q =
    if !blum p || !blum q || p == q then .error .invalidKeyPair
    else .ok ((crtTerm h p q + crtTerm h q p) % (p * q)) :=
  if_neg ((bitlen_le_iff _ _).2 hw).not_gt

theorem rcrtResult_of_badPair (hw : p * q < 2 ^ W) (hpq : BadPair p q) :
    rcrtResult W h p q = .error .invalidKeyPair :=
  (rcrtResult_of_fits hw).trans (if_pos (badPair_iff.2 hpq))

theorem rcrtResult_of_pair (hw : p * q < 2 ^ W) (hpq : ¬ BadPair p q) :
    rcrtResult W h p q = .ok ((crtTerm h p q + crtTerm h q p) % (p * q)) :=
  (rcrtResult_of_fits hw).trans (if_neg (mt badPair_iff.1 hpq))

/-- Every test and the sum are symmetric in `p` and `q` (R128). -/
theorem rcrtResult_comm (W h p q : Nat) : rcrtResult W h q p = rcrtResult W h p q := by
  have hmul := Nat.mul_comm q p
  rcases Nat.lt_or_ge (p * q) (2 ^ W) with hw | hw
  · by_cases hpq : BadPair p q
    · rw [rcrtResult_of_badPair hw hpq, rcrtResult_of_badPair (hmul ▸ hw) hpq.symm]
    · rw [rcrtResult_of_pair hw hpq, rcrtResult_of_pair (hmul ▸ hw) (mt BadPair.symm hpq), hmul, Nat.add_comm]
  · rw [rcrtResult_of_wide hw, rcrtResult_of_wide (hmul ▸ hw)]

end Pair

/-- The CRT sum that RCRT writes for a pair that passes its tests (R128). -/
theorem exec_rcrt_writes (bd bh : BReg) {bp bq : BReg} {s : State} (hw : s.readB bp * s.readB bq < 2 ^ s.cfg.W)
    (hpq : ¬ BadPair (s.readB bp) (s.readB bq)) :
    ∃ t, exec (.rcrt bd bh bp bq) s = .next t ∧
      WroteB s t bd ((crtTerm (s.readB bh) (s.readB bp) (s.readB bq) + crtTerm (s.readB bh) (s.readB bq) (s.readB bp)) %
        (s.readB bp * s.readB bq)) := by
  rw [exec_rcrt, rcrtResult_of_pair hw hpq]
  exact finishB_ok s bd _

theorem crtTerm_eq (h p q : Nat) : crtTerm h p q = q * (h ^ ((p + 1) / 4) % p) * (q ^ (p - 2) % p) := by
  rw [crtTerm, modexp_eq, modexp_eq]

/-! ## The statements about one command (R126 to R129) -/

/-- What QRT tests (R126): `a ≡ 0`, or Euler's power of `a` is 1. -/
abbrev PassesEuler (a p : Nat) : Prop := a % p = 0 ∨ a ^ ((p - 1) / 2) % p = 1

/-- Settles O32: the operands' test, and otherwise the bit of Euler's power, which is `modexp`'s (`modexp_eq`). -/
theorem qrtTestsEulersCriterion : Obligations.QrtTestsEulersCriterion := by
  unfold Obligations.QrtTestsEulersCriterion
  intro ba bp
  refine ⟨Laws.decodeReadsEncodedCommand (.qrt ba bp) rfl, fun s => ⟨fun h => ?_, fun h3 h2 => ?_⟩⟩
  · rw [exec_qrt_of_illegal ba h]
    exact finishT_error s _
  · rw [exec_qrt_of_legal ba h3 h2, modexp_eq]
    obtain ⟨t, ht, hw⟩ := finishT_ok s _
    exact ⟨t, _, ht, hw, by simp⟩

/-- Settles O33: the test of `blum`, and otherwise the power. -/
theorem bsqrtTakesTheBlumRoot : Obligations.BsqrtTakesTheBlumRoot := by
  unfold Obligations.BsqrtTakesTheBlumRoot
  intro bd ba bp
  refine ⟨Laws.decodeReadsEncodedCommand (.bsqrt bd ba bp) rfl, fun s => ⟨fun h => ?_, fun h => ?_⟩⟩
  · rw [exec_bsqrt_of_not_blum bd ba h]
    exact finishB_error s bd _
  · rw [exec_bsqrt_of_blum bd ba h, modexp_eq]
    exact finishB_ok s bd _

/-- Settles O34: the two tests in their order, the CRT sum, and the symmetry of all three. -/
theorem rcrtReconstructsOrFaults : Obligations.RcrtReconstructsOrFaults := by
  unfold Obligations.RcrtReconstructsOrFaults
  intro bd bh bp bq
  refine ⟨Laws.decodeReadsEncodedCommand (.rcrt bd bh bp bq) rfl,
    fun s => ⟨fun hw => ?_, fun hw hpq => ?_, fun hw hp hq hne => ?_, ?_⟩⟩
  · rw [exec_rcrt, rcrtResult_of_wide hw]
    exact finishB_error s bd _
  · rw [exec_rcrt, rcrtResult_of_badPair hw hpq]
    exact finishB_error s bd _
  · rw [← crtTerm_eq, ← crtTerm_eq]
    exact exec_rcrt_writes bd bh hw (by simp [hp, hq, hne])
  · rw [exec_rcrt, exec_rcrt, rcrtResult_comm]

/-- Settles O35: the test of `n`, and otherwise the bit of the congruence. -/
theorem rvfyTestsTheCongruence : Obligations.RvfyTestsTheCongruence := by
  unfold Obligations.RvfyTestsTheCongruence
  intro bs bh bn
  refine ⟨Laws.decodeReadsEncodedCommand (.rvfy bs bh bn) rfl, fun s => ⟨fun h => ?_, fun h => ?_⟩⟩
  · rw [exec_rvfy_of_zero bs bh h]
    exact finishT_error s _
  · rw [exec_rvfy_of_ne_zero bs bh h]
    obtain ⟨t, ht, hw⟩ := finishT_ok s _
    exact ⟨t, _, ht, hw, beq_iff_eq⟩

/-! ## The root of a Blum prime (R127) -/

section Root

variable {a p : Nat}

/-- The exponents of R127: twice `(p + 1)/4` is one more than `(p − 1)/2`. -/
theorem blumRoot_mul_self (hp : p % 4 = 3) (a : Nat) :
    a ^ ((p + 1) / 4) * a ^ ((p + 1) / 4) = a * a ^ ((p - 1) / 2) := by
  rw [← pow_add, ← pow_succ']
  congr 1
  omega

/-- No primality is needed here: Euler's power is 1, or both sides are 0. -/
theorem mul_eulerPower_modEq (h : PassesEuler a p) (hp : 1 < p) : a * a ^ ((p - 1) / 2) ≡ a [MOD p] := by
  rcases h with h0 | h1
  · have ha : a ≡ 0 [MOD p] := h0
    calc a * a ^ ((p - 1) / 2) ≡ 0 * a ^ ((p - 1) / 2) [MOD p] := ha.mul_right _
      _ = 0 := Nat.zero_mul _
      _ ≡ a [MOD p] := ha.symm
  · have h1 : a ^ ((p - 1) / 2) ≡ 1 [MOD p] := h1.trans (Nat.mod_eq_of_lt hp).symm
    simpa using h1.mul_left a

theorem blumRoot_mul_self_modEq (hp : p % 4 = 3) (h : PassesEuler a p) :
    a ^ ((p + 1) / 4) * a ^ ((p + 1) / 4) ≡ a [MOD p] :=
  blumRoot_mul_self hp a ▸ mul_eulerPower_modEq h (by omega)

theorem passesEuler_iff_zmod (hp : 1 < p) (hodd : p % 2 = 1) :
    PassesEuler a p ↔ (a : ZMod p) = 0 ∨ (a : ZMod p) ^ (p / 2) = 1 := by
  have hhalf : (p - 1) / 2 = p / 2 := by omega
  have hone := ZMod.natCast_eq_natCast_iff' (a ^ (p / 2)) 1 p
  rw [Nat.mod_eq_of_lt hp] at hone
  push_cast at hone
  rw [PassesEuler, hhalf, hone, ZMod.natCast_eq_zero_iff, Nat.dvd_iff_mod_eq_zero]

theorem isSquare_natCast_iff [NeZero p] : IsSquare (a : ZMod p) ↔ ∃ x, x * x % p = a % p := by
  constructor
  · rintro ⟨r, hr⟩
    refine ⟨r.val, (ZMod.natCast_eq_natCast_iff' _ _ p).1 ?_⟩
    rw [Nat.cast_mul, ZMod.natCast_zmod_val, hr]
  · rintro ⟨x, hx⟩
    have h := (ZMod.natCast_eq_natCast_iff' _ _ p).2 hx
    exact ⟨x, by rw [← h, Nat.cast_mul]⟩

/-- Euler's criterion: modulo an odd prime, QRT accepts exactly the squares (R126). -/
theorem passesEuler_iff_exists_sq (hp : p.Prime) (hodd : p % 2 = 1) : PassesEuler a p ↔ ∃ x, x * x % p = a % p := by
  have : Fact p.Prime := ⟨hp⟩
  rw [passesEuler_iff_zmod hp.one_lt hodd, ← isSquare_natCast_iff]
  by_cases ha : (a : ZMod p) = 0
  · simp [ha]
  · simp [ha, ZMod.euler_criterion p ha]

/-- Modulo an odd prime, Euler's power of a number that fails the test is `−1`. -/
theorem mul_eulerPower_add_modEq (hp : p.Prime) (hodd : p % 2 = 1) (h : ¬ PassesEuler a p) :
    a * a ^ ((p - 1) / 2) + a ≡ 0 [MOD p] := by
  have : Fact p.Prime := ⟨hp⟩
  have hhalf : (p - 1) / 2 = p / 2 := by omega
  rw [passesEuler_iff_zmod hp.one_lt hodd, not_or] at h
  obtain ⟨h0, h1⟩ := h
  have hneg := (ZMod.pow_div_two_eq_neg_one_or_one p h0).resolve_left h1
  rw [hhalf, Nat.modEq_zero_iff_dvd, ← ZMod.natCast_eq_zero_iff]
  push_cast
  rw [hneg]
  ring

theorem blumRoot_mul_self_add_modEq (hp : p.Prime) (hblum : p % 4 = 3) (h : ¬ PassesEuler a p) :
    a ^ ((p + 1) / 4) * a ^ ((p + 1) / 4) + a ≡ 0 [MOD p] :=
  blumRoot_mul_self hblum a ▸ mul_eulerPower_add_modEq hp (by omega) h

end Root

/-- Settles O36: a residue is what passes Euler's test, and the power that the root's square carries is 1 or `−1`. -/
theorem blumRootSquaresToTheResidue : Obligations.BlumRootSquaresToTheResidue := by
  unfold Obligations.BlumRootSquaresToTheResidue
  intro s t bd ba bp hprime hp ht
  obtain ⟨-, hbsqrt⟩ := bsqrtTakesTheBlumRoot bd ba bp
  obtain ⟨t', ht', hw⟩ := (hbsqrt s).2 hp
  cases ht.symm.trans ht'
  rw [hw.value, ← passesEuler_iff_exists_sq hprime (by omega)]
  have hroot := Nat.mod_modEq (s.readB ba ^ ((s.readB bp + 1) / 4)) (s.readB bp)
  have hsq := hroot.mul hroot
  exact ⟨fun h => hsq.trans (blumRoot_mul_self_modEq hp h),
    fun h => (hsq.add_right _).trans (blumRoot_mul_self_add_modEq hprime hp h)⟩

/-! ## The round trip (R130) -/

section RoundTrip

variable {h p q : Nat}

/-- Fermat: `q ^ (p − 2)` inverts `q` modulo the prime `p`, so the term of `p` is the root modulo `p`. -/
theorem crtTerm_modEq_root (hp : p.Prime) (hpq : q.Coprime p) : crtTerm h p q ≡ h ^ ((p + 1) / 4) [MOD p] := by
  have hfermat : q * q ^ (p - 2) ≡ 1 [MOD p] := by
    have hexp : p - 2 + 1 = Nat.totient p := by
      rw [Nat.totient_prime hp]
      have := hp.two_le
      omega
    rw [← pow_succ', hexp]
    exact Nat.ModEq.pow_totient hpq
  rw [crtTerm_eq]
  calc q * (h ^ ((p + 1) / 4) % p) * (q ^ (p - 2) % p)
      ≡ q * h ^ ((p + 1) / 4) * q ^ (p - 2) [MOD p] := ((Nat.mod_modEq _ _).mul_left q).mul (Nat.mod_modEq _ _)
    _ = h ^ ((p + 1) / 4) * (q * q ^ (p - 2)) := by ring
    _ ≡ h ^ ((p + 1) / 4) * 1 [MOD p] := hfermat.mul_left _
    _ = h ^ ((p + 1) / 4) := Nat.mul_one _

theorem crtTerm_modEq_zero (h p q : Nat) : crtTerm h q p ≡ 0 [MOD p] :=
  Nat.modEq_zero_iff_dvd.2 ⟨_, Nat.mul_assoc ..⟩

/-- Modulo `p` only the term of `p` is left of the CRT sum. -/
theorem crtSum_mul_self_modEq (hp : p.Prime) (hpq : q.Coprime p) (hblum : p % 4 = 3) (hh : PassesEuler h p) :
    (crtTerm h p q + crtTerm h q p) * (crtTerm h p q + crtTerm h q p) ≡ h [MOD p] := by
  have hsum : crtTerm h p q + crtTerm h q p ≡ h ^ ((p + 1) / 4) [MOD p] :=
    (crtTerm_modEq_root hp hpq).add (crtTerm_modEq_zero h p q)
  exact (hsum.mul hsum).trans (blumRoot_mul_self_modEq hblum hh)

/-- The Chinese remainder theorem joins the congruences modulo `p` and modulo `q`. -/
theorem crtSum_mod_mul_self_modEq (hp : p.Prime) (hq : q.Prime) (hne : p ≠ q) (hpb : p % 4 = 3) (hqb : q % 4 = 3)
    (hhp : PassesEuler h p) (hhq : PassesEuler h q) :
    (crtTerm h p q + crtTerm h q p) % (p * q) * ((crtTerm h p q + crtTerm h q p) % (p * q)) ≡ h [MOD p * q] := by
  have hco : p.Coprime q := (Nat.coprime_primes hp hq).2 hne
  have hmodq := crtSum_mul_self_modEq hq hco hqb hhq
  rw [Nat.add_comm (crtTerm h q p)] at hmodq
  have hmod := Nat.mod_modEq (crtTerm h p q + crtTerm h q p) (p * q)
  exact (hmod.mul hmod).trans
    ((Nat.modEq_and_modEq_iff_modEq_mul hco).1 ⟨crtSum_mul_self_modEq hp hco.symm hpb hhp, hmodq⟩)

end RoundTrip

/-- QRT's `T = 1` says that its operand passes the test (R126). -/
theorem passesEuler_of_qrt {s t : State} {ba bp : BReg} (hp : s.readB bp % 4 = 3)
    (ht : exec (.qrt ba bp) s = .next t) (hT : t.tflag = true) : PassesEuler (s.readB ba) (s.readB bp) := by
  obtain ⟨-, hqrt⟩ := qrtTestsEulersCriterion ba bp
  obtain ⟨t', v, ht', hw, hv⟩ := (hqrt s).2 (by omega) (by omega)
  cases ht.symm.trans ht'
  exact hv.1 (hw.value.symm.trans hT)

/-- Settles O37: QRT's two answers are what the congruence of RCRT's sum needs, and RVFY tests that congruence on the
registers `bh` and `bn` that RCRT has left alone. -/
theorem rabinRoundTripVerifies : Obligations.RabinRoundTripVerifies := by
  unfold Obligations.RabinRoundTripVerifies
  intro s s1 s2 t bd bh bp bq bn hp hq hne hpb hqb hfit hn hbn hbh hs1 hT1 hs2 hT2 ht
  obtain ⟨t', ht', hw⟩ := exec_rcrt_writes bd bh hfit (by simp [hpb, hqb, hne])
  cases ht.symm.trans ht'
  have hcong : t.readB bd * t.readB bd % t.readB bn = t.readB bh % t.readB bn := by
    rw [hw.value, hw.b bn hbn, hw.b bh hbh, hn]
    exact crtSum_mod_mul_self_modEq hp hq hne hpb hqb (passesEuler_of_qrt hpb hs1 hT1) (passesEuler_of_qrt hqb hs2 hT2)
  have hn0 : t.readB bn ≠ 0 := by
    rw [hw.b bn hbn, hn]
    exact Nat.mul_ne_zero hp.ne_zero hq.ne_zero
  obtain ⟨-, hrvfy⟩ := rvfyTestsTheCongruence bd bh bn
  obtain ⟨u, v, hu, hwT, hv⟩ := (hrvfy t).2 hn0
  exact ⟨hcong, u, hu, hv.2 hcong ▸ hwT⟩

end Sys2Proof.Machine

/-! SUPPORT. Proofs of the statements of spec/60_exceptions.md: the word that is no command, the write to STATUS, what the
fault latch freezes, and the numbers of the faults. -/

namespace Sys2Proof.Machine

variable {s t : State}

/-! ## The word that is no command (R166) -/

theorem row_mem_opcodeMap (i : Instr) : i.row ∈ opcodeMap := by
  cases i <;> simp [Instr.row, opcodeMap]

/-- Settles O7: a word that decodes matches its command's row as R63 says, so the engine's turn finds no command here. -/
theorem illegalWordRaisesIllegalCommand : Obligations.IllegalWordRaisesIllegalCommand := by
  unfold Obligations.IllegalWordRaisesIllegalCommand
  intro s hb hno
  obtain ⟨t, ht, hcases⟩ := engineTurn_cases s
  refine ⟨t, ht, ?_⟩
  rcases hcases with ⟨hidle, -⟩ | ⟨-, i, hd, -, -⟩ | ⟨-, -, hf⟩
  · simp [hb] at hidle
  · have hrow := row_mem_opcodeMap i
    obtain ⟨hmatch, hle⟩ := (Laws.decodeAgreesWithOpcodeMap s.cmdreg i.row hrow).1 ⟨i, hd, rfl⟩
    obtain ⟨hldc, hgt⟩ := hno i.row hrow hmatch
    exact absurd (hle hldc) (Nat.not_le.2 hgt)
  · exact hf

/-! ## The write to STATUS (R173, spec/20_memory.md R54) -/

/-- All sixteen fields after a STATUS write, the fault return included. -/
theorem writeStatus_eq (s : State) (v : Word) : s.writeStatus v = { s with
    done := s.done && !v.getLsbD 1
    err := s.err && !v.getLsbD 2
    drop := s.drop && !v.getLsbD 4
    accv := s.accv && !v.getLsbD 5
    errcode := if v.getLsbD 2 then none else s.errcode
    errinfo := if v.getLsbD 2 then 0 else s.errinfo } := by
  unfold State.writeStatus
  cases v.getLsbD 2 with
  | false => simp
  | true => simp [State.faultReturn]

theorem step_write_status {v : Word} {rest : List HostAction} (h : s.bus = .write (wordAddr 0x0008) v :: rest) :
    step s = .next (State.writeStatus { s with bus := rest } v) :=
  step_write_control (by decide) (by decide) h

/-- Settles O39: the step is the STATUS write, field by field. -/
theorem statusWriteClearsFlags : Obligations.StatusWriteClearsFlags := by
  unfold Obligations.StatusWriteClearsFlags
  intro s v rest h
  rw [step_write_status h, writeStatus_eq]

/-! ## What the fault latch freezes (R174) -/

/-- What stays as it is while the fault latch is set: ERR, ERRCODE, ERRINFO, CMDREG and BUSY (R174). -/
def State.latchFields (s : State) : Bool × Option FaultCode × Word × Word × Bool :=
  (s.err, s.errcode, s.errinfo, s.cmdreg, s.busy)

theorem latchFields_eq_iff : t.latchFields = s.latchFields ↔
    t.err = s.err ∧ t.errcode = s.errcode ∧ t.errinfo = s.errinfo ∧ t.cmdreg = s.cmdreg ∧ t.busy = s.busy := by
  simp [State.latchFields]

theorem latchFields_busRead (s : State) (a : WordAddr) : (s.busRead a).latchFields = s.latchFields := by
  rcases busRead_cases s a with ⟨-, he⟩ | ⟨-, he⟩ <;> rw [he] <;> rfl

/-- With the latch set only the STATUS write with bit 2 reaches these fields: a command word is dropped (R49). -/
theorem latchFields_writeWord {w : MapWord} {v : Word} (herr : s.err = true)
    (hst : w = .status → v.getLsbD 2 = false) : (s.writeWord w v).latchFields = s.latchFields := by
  cases w with
  | cmd =>
    show (s.offer v).latchFields = s.latchFields
    rw [offer_of_busy_or_err v (.inr herr)]
    rfl
  | status =>
    show (s.writeStatus v).latchFields = s.latchFields
    rw [writeStatus_eq, hst rfl]
    simp [State.latchFields]
  | _ => rfl

/-- The data region shows the data registers and nothing else (spec/20_memory.md R43), whatever `W` is. -/
theorem dataWord_ofRegister_or_reserved (W off : Nat) :
    (dataWord W off).ofRegister = true ∨ dataWord W off = .reserved := by
  unfold dataWord
  split
  · split
    next hi =>
      rcases pointWord_cases ⟨_, hi⟩ (r := (off - 0x0200) % 0x80) with ⟨e, -⟩ | ⟨e, -⟩ | ⟨e, -⟩ | ⟨e, -⟩ <;> rw [e]
      · exact .inl rfl
      · exact .inl rfl
      · exact .inl rfl
      · exact .inr rfl
    next => exact .inr rfl
  · split
    · split
      · exact .inl rfl
      · exact .inr rfl
    · exact .inr rfl

/-- STATUS lies at one offset, whatever `W` is (spec/20_memory.md R43). -/
theorem offset_of_mapWord_status {W off : Nat} (h4 : off % 4 = 0) (h : mapWord W off = .status) : off = 0x0008 := by
  by_cases hc : off < 0x0200
  · simpa [h] using controlWord_cases (W := W) h4 hc
  · have hd : mapWord W off = dataWord W off := if_pos (by simpa [dataRegion] using hc)
    rcases dataWord_ofRegister_or_reserved W off with e | e <;> rw [← hd, h] at e <;> cases e

theorem latchFields_busWrite {a : WordAddr} {v : Word} (herr : s.err = true)
    (hst : a = wordAddr 0x0008 → v.getLsbD 2 = false) : (s.busWrite a v).latchFields = s.latchFields := by
  rcases busWrite_cases s a v with ⟨-, he⟩ | ⟨-, he⟩ <;> rw [he]
  · rfl
  · refine latchFields_writeWord herr fun hw => hst ?_
    rw [← wordAddr_offset a, offset_of_mapWord_status (offset_mod a) hw]

/-- Settles O51: a latched fault leaves the engine idle, and no access but the excluded one reaches the frozen fields. -/
theorem faultLatchHolds : Obligations.FaultLatchHolds := by
  unfold Obligations.FaultLatchHolds
  intro s t hL herr h hstatus hreset
  have hb : s.busy = false := by
    cases hb : s.busy with
    | false => rfl
    | true => exact absurd herr (by simp [(hL hb).2])
  have hkeep : t.latchFields = s.latchFields := by
    obtain ⟨t', ht', hcases⟩ := step_cases s
    cases h.symm.trans ht'
    rcases hcases with ⟨-, he⟩ | ⟨rest, -, he⟩ | ⟨a, rest, -, rfl⟩ | ⟨a, v, rest, hw, rfl⟩ | ⟨rest, hr, -⟩
    · cases (engineTurn_of_idle hb).symm.trans he
      rfl
    · cases (engineTurn_of_idle (s := { s with bus := rest }) hb).symm.trans he
      rfl
    · exact latchFields_busRead { s with bus := rest } a
    · exact latchFields_busWrite (s := { s with bus := rest }) herr fun ha => hstatus v rest (ha ▸ hw)
    · exact absurd hr (hreset rest)
  obtain ⟨he, hcode, hinfo, hcmd, hbusy⟩ := latchFields_eq_iff.1 hkeep
  exact ⟨he.trans herr, hcode, hinfo, hcmd, hbusy.trans hb⟩

/-! ## The numbers of the faults (R160) -/

/-- Settles O55: each name's number, as `FaultCode.code` gives it. -/
theorem faultCodesAreAsTabled : Obligations.FaultCodesAreAsTabled :=
  ⟨rfl, rfl, rfl, rfl, rfl, rfl, rfl, rfl, rfl⟩

end Sys2Proof.Machine

/-! SUPPORT. Proofs of the statements of spec/70_reset_and_hazards.md: the step of a reset, and that a command is
completed once the host's actions have run out. -/

namespace Sys2Proof.Machine

variable {s t : State}

/-! ## Reset (R190, R191) -/

/-- The step of a reset (R190). -/
theorem step_reset {rest : List HostAction} (h : s.bus = .reset :: rest) :
    step s = .next (State.initial s.cfg rest) := by
  simp [step, h, hostTurn]

@[simp] theorem statusWord_initial (c : Config) (acts : List HostAction) : (State.initial c acts).statusWord = 0 := by
  simp [State.statusWord, State.initial, flagBit]

@[simp] theorem ctrlWord_initial (c : Config) (acts : List HostAction) : (State.initial c acts).ctrlWord = 0 := by
  simp [State.ctrlWord, State.initial, flagBit]

/-- Settles O43: the step reads nothing of the old state but `W` and the host's actions, BUSY included. -/
theorem resetAbandonsEverything : Obligations.ResetAbandonsEverything := by
  unfold Obligations.ResetAbandonsEverything
  intro s rest h
  exact ⟨_, step_reset h, State.readB_initial _ _, State.readP_initial _ _, statusWord_initial _ _,
    ctrlWord_initial _ _, rfl, rfl, rfl, rfl, rfl, rfl, rfl⟩

/-! ## A step takes one action off the host's list (R51) -/

@[simp] theorem busRead_bus (s : State) (a : WordAddr) : (s.busRead a).bus = s.bus := by
  rcases busRead_cases s a with ⟨-, he⟩ | ⟨-, he⟩ <;> rw [he]

@[simp] theorem offer_bus (s : State) (v : Word) : (s.offer v).bus = s.bus := by
  unfold State.offer
  split <;> rfl

@[simp] theorem writeWord_bus (s : State) (w : MapWord) (v : Word) : (s.writeWord w v).bus = s.bus := by
  cases w with
  | cmd => exact offer_bus s v
  | status => exact State.writeStatus_bus s v
  | _ => rfl

@[simp] theorem busWrite_bus (s : State) (a : WordAddr) (v : Word) : (s.busWrite a v).bus = s.bus := by
  rcases busWrite_cases s a v with ⟨-, he⟩ | ⟨-, he⟩ <;> rw [he]
  exact writeWord_bus s _ v

/-- After the engine's turn no command is pending, whether one ended, faulted or was none (R50, R170). -/
theorem engineTurn_bus_busy (h : engineTurn s = .next t) : t.bus = s.bus ∧ t.busy = false := by
  obtain ⟨t', ht', hcases⟩ := engineTurn_cases s
  cases h.symm.trans ht'
  rcases hcases with ⟨hb, rfl⟩ | ⟨-, i, -, -, he⟩ | ⟨-, -, hf⟩
  · exact ⟨rfl, hb⟩
  · exact he.bus_busy
  · exact ⟨hf.bus, hf.busy⟩

/-- Whatever the next action is, the step after it has the rest of the list before it. -/
theorem step_bus_of_cons {act : HostAction} {rest : List HostAction} (h : s.bus = act :: rest) :
    ∃ t, step s = .next t ∧ t.bus = rest := by
  obtain ⟨t, ht, hcases⟩ := step_cases s
  refine ⟨t, ht, ?_⟩
  rcases hcases with ⟨hb, -⟩ | ⟨r, hb, he⟩ | ⟨a, r, hb, rfl⟩ | ⟨a, v, r, hb, rfl⟩ | ⟨r, hb, rfl⟩ <;>
    cases h.symm.trans hb
  · exact (engineTurn_bus_busy he).1
  · exact busRead_bus _ a
  · exact busWrite_bus _ a v
  · rfl

/-! ## The completion of every command (R200, R201) -/

/-- As many steps as the host has actions use them all up. -/
theorem run_bus_length (s : State) : ∃ t, Host.Core.run Sys2Proof.core s.bus.length s = .next t ∧ t.bus = [] := by
  induction hb : s.bus generalizing s with
  | nil => exact ⟨s, rfl, hb⟩
  | cons act rest ih =>
    obtain ⟨u, hu, hrest⟩ := step_bus_of_cons hb
    obtain ⟨t, ht, hnil⟩ := ih u hrest
    exact ⟨t, (run_succ rest.length hu).trans ht, hnil⟩

/-- Settles O57: the host's actions run out by induction on their list, and the one step more is the engine's turn. -/
theorem noCommandStaysPending : Obligations.NoCommandStaysPending := by
  unfold Obligations.NoCommandStaysPending
  intro s
  obtain ⟨u, hu, hnil⟩ := run_bus_length s
  obtain ⟨t, ht, -⟩ := engineTurn_cases u
  obtain ⟨hbus, hbusy⟩ := engineTurn_bus_busy ht
  have hturn : Host.Core.run Sys2Proof.core 1 u = .next t := run_one ((step_nil hnil).trans ht)
  exact ⟨t, (run_add s.bus.length 1 hu).trans hturn, hbus.trans hnil, hbusy⟩

end Sys2Proof.Machine
